-- ==== Sys2Proof/Word.lean ====
section
/-! DEFINITION. The word types of the machine (spec/00_scope.md R5, R7): every value is unsigned. -/

namespace Sys2Proof

/-- A byte: a general register, a memory cell, an immediate `kk` (10_state.md R13, 20_memory.md R32). -/
abbrev Byte := BitVec 8

/-- A 4-bit instruction field: `x`, `y`, `n` or the opcode class (30_encoding.md R51). -/
abbrev Nibble := BitVec 4

/-- A memory address 0x000 to 0xFFF, and the field `nnn` (20_memory.md R31, 30_encoding.md R51). -/
abbrev Addr := BitVec 12

/-- A 16-bit word: `I`, `pc`, a stack entry, an instruction word (10_state.md R16, R17, R21). -/
abbrev Word := BitVec 16

end Sys2Proof
end

