-- ==== Sys2Proof/Syntax.lean ====
section
/-! DEFINITION. The 34 instruction forms, one constructor per row of the opcode map
(spec/30_encoding.md R53), in its order. An operand is the encoding's own field at its own width
(R51, R55), so a term of `Instr` cannot hold a value the encoding has no bits for. -/

namespace Sys2Proof

/-- The instruction forms of 30_encoding.md R53. -/
inductive Instr where
  /-- `00E0` `CLS` -/
  | cls
  /-- `00EE` `RET` -/
  | ret
  /-- `1nnn` `JP nnn` -/
  | jp (nnn : Addr)
  /-- `2nnn` `CALL nnn` -/
  | call (nnn : Addr)
  /-- `3xkk` `SE Vx, kk` -/
  | seByte (x : Nibble) (kk : Byte)
  /-- `4xkk` `SNE Vx, kk` -/
  | sneByte (x : Nibble) (kk : Byte)
  /-- `5xy0` `SE Vx, Vy` -/
  | seReg (x y : Nibble)
  /-- `6xkk` `LD Vx, kk` -/
  | ldByte (x : Nibble) (kk : Byte)
  /-- `7xkk` `ADD Vx, kk` -/
  | addByte (x : Nibble) (kk : Byte)
  /-- `8xy0` `LD Vx, Vy` -/
  | ldReg (x y : Nibble)
  /-- `8xy1` `OR Vx, Vy` -/
  | orReg (x y : Nibble)
  /-- `8xy2` `AND Vx, Vy` -/
  | andReg (x y : Nibble)
  /-- `8xy3` `XOR Vx, Vy` -/
  | xorReg (x y : Nibble)
  /-- `8xy4` `ADD Vx, Vy` -/
  | addReg (x y : Nibble)
  /-- `8xy5` `SUB Vx, Vy` -/
  | subReg (x y : Nibble)
  /-- `8xy6` `SHR Vx`: the field `y` is legal at every value and ignored (R55). -/
  | shr (x y : Nibble)
  /-- `8xy7` `SUBN Vx, Vy` -/
  | subnReg (x y : Nibble)
  /-- `8xyE` `SHL Vx`: the field `y` is legal at every value and ignored (R55). -/
  | shl (x y : Nibble)
  /-- `9xy0` `SNE Vx, Vy` -/
  | sneReg (x y : Nibble)
  /-- `Annn` `LD I, nnn` -/
  | ldI (nnn : Addr)
  /-- `Bnnn` `JP V0, nnn` -/
  | jpV0 (nnn : Addr)
  /-- `Cxkk` `RND Vx, kk` -/
  | rnd (x : Nibble) (kk : Byte)
  /-- `Dxyn` `DRW Vx, Vy, n` -/
  | drw (x y n : Nibble)
  /-- `Ex9E` `SKP Vx` -/
  | skp (x : Nibble)
  /-- `ExA1` `SKNP Vx` -/
  | sknp (x : Nibble)
  /-- `Fx07` `LD Vx, DT` -/
  | ldVxDT (x : Nibble)
  /-- `Fx0A` `LD Vx, K` -/
  | ldVxK (x : Nibble)
  /-- `Fx15` `LD DT, Vx` -/
  | ldDTVx (x : Nibble)
  /-- `Fx18` `LD ST, Vx` -/
  | ldSTVx (x : Nibble)
  /-- `Fx1E` `ADD I, Vx` -/
  | addI (x : Nibble)
  /-- `Fx29` `LD F, Vx` -/
  | ldF (x : Nibble)
  /-- `Fx33` `LD B, Vx` -/
  | ldB (x : Nibble)
  /-- `Fx55` `LD [I], Vx` -/
  | storeRegs (x : Nibble)
  /-- `Fx65` `LD Vx, [I]` -/
  | loadRegs (x : Nibble)
  deriving DecidableEq, Repr

end Sys2Proof
end

