-- ==== Sys2Proof/WellFormed.lean ====
section
/-! DEFINITION. Which words are instructions, stated from the opcode map alone (spec/30_encoding.md R51,
R53) and independently of the decoder, which is held against it.

The operands of `Instr` are bit vectors of the encoding's own widths, and every value of every field is
legal (10_state.md R13, 30_encoding.md R55), so every term of `Instr` is well-formed: what can be
ill-formed is a WORD, and `wordWellFormed` is the check. -/

namespace Sys2Proof

/-- A row of the opcode map: a word `w` spells the row's form exactly when `w & mask = bits` (R53). -/
structure Row where
  pattern : String
  bits : Word
  mask : Word
  deriving DecidableEq, Repr

/-- `w & mask = match` (R53). -/
def Row.admits (r : Row) (w : Word) : Bool := w &&& r.mask == r.bits

/-- The row of each form: pattern, match and mask as R53 lists them. -/
def Instr.row : Instr → Row
  | .cls => ⟨"00E0", 0x00E0, 0xFFFF⟩
  | .ret => ⟨"00EE", 0x00EE, 0xFFFF⟩
  | .jp .. => ⟨"1nnn", 0x1000, 0xF000⟩
  | .call .. => ⟨"2nnn", 0x2000, 0xF000⟩
  | .seByte .. => ⟨"3xkk", 0x3000, 0xF000⟩
  | .sneByte .. => ⟨"4xkk", 0x4000, 0xF000⟩
  | .seReg .. => ⟨"5xy0", 0x5000, 0xF00F⟩
  | .ldByte .. => ⟨"6xkk", 0x6000, 0xF000⟩
  | .addByte .. => ⟨"7xkk", 0x7000, 0xF000⟩
  | .ldReg .. => ⟨"8xy0", 0x8000, 0xF00F⟩
  | .orReg .. => ⟨"8xy1", 0x8001, 0xF00F⟩
  | .andReg .. => ⟨"8xy2", 0x8002, 0xF00F⟩
  | .xorReg .. => ⟨"8xy3", 0x8003, 0xF00F⟩
  | .addReg .. => ⟨"8xy4", 0x8004, 0xF00F⟩
  | .subReg .. => ⟨"8xy5", 0x8005, 0xF00F⟩
  | .shr .. => ⟨"8xy6", 0x8006, 0xF00F⟩
  | .subnReg .. => ⟨"8xy7", 0x8007, 0xF00F⟩
  | .shl .. => ⟨"8xyE", 0x800E, 0xF00F⟩
  | .sneReg .. => ⟨"9xy0", 0x9000, 0xF00F⟩
  | .ldI .. => ⟨"Annn", 0xA000, 0xF000⟩
  | .jpV0 .. => ⟨"Bnnn", 0xB000, 0xF000⟩
  | .rnd .. => ⟨"Cxkk", 0xC000, 0xF000⟩
  | .drw .. => ⟨"Dxyn", 0xD000, 0xF000⟩
  | .skp .. => ⟨"Ex9E", 0xE09E, 0xF0FF⟩
  | .sknp .. => ⟨"ExA1", 0xE0A1, 0xF0FF⟩
  | .ldVxDT .. => ⟨"Fx07", 0xF007, 0xF0FF⟩
  | .ldVxK .. => ⟨"Fx0A", 0xF00A, 0xF0FF⟩
  | .ldDTVx .. => ⟨"Fx15", 0xF015, 0xF0FF⟩
  | .ldSTVx .. => ⟨"Fx18", 0xF018, 0xF0FF⟩
  | .addI .. => ⟨"Fx1E", 0xF01E, 0xF0FF⟩
  | .ldF .. => ⟨"Fx29", 0xF029, 0xF0FF⟩
  | .ldB .. => ⟨"Fx33", 0xF033, 0xF0FF⟩
  | .storeRegs .. => ⟨"Fx55", 0xF055, 0xF0FF⟩
  | .loadRegs .. => ⟨"Fx65", 0xF065, 0xF0FF⟩

/-- The opcode map of R53: all 34 rows, in its order. -/
def opcodeMap : List Row :=
  [Instr.cls, .ret, .jp 0, .call 0, .seByte 0 0, .sneByte 0 0, .seReg 0 0, .ldByte 0 0, .addByte 0 0,
    .ldReg 0 0, .orReg 0 0, .andReg 0 0].map Instr.row ++
  [Instr.xorReg 0 0, .addReg 0 0, .subReg 0 0, .shr 0 0, .subnReg 0 0, .shl 0 0, .sneReg 0 0, .ldI 0,
    .jpV0 0, .rnd 0 0, .drw 0 0 0].map Instr.row ++
  [Instr.skp 0, .sknp 0, .ldVxDT 0, .ldVxK 0, .ldDTVx 0, .ldSTVx 0, .addI 0, .ldF 0, .ldB 0,
    .storeRegs 0, .loadRegs 0].map Instr.row

/-- The check on words: some row of the opcode map admits the word. Every other word is illegal (R56). -/
def wordWellFormed (w : Word) : Bool := opcodeMap.any (·.admits w)

/-- The operands of the form stand in the word at the bits R51 gives them: `x` in 11 to 8, `y` in 7 to 4,
`n` in 3 to 0, `kk` in 7 to 0, `nnn` in 11 to 0. -/
def Instr.fieldsIn (w : Word) : Instr → Bool
  | .cls => true
  | .ret => true
  | .jp nnn => w.extractLsb' 0 12 == nnn
  | .call nnn => w.extractLsb' 0 12 == nnn
  | .seByte x kk => w.extractLsb' 8 4 == x && w.extractLsb' 0 8 == kk
  | .sneByte x kk => w.extractLsb' 8 4 == x && w.extractLsb' 0 8 == kk
  | .seReg x y => w.extractLsb' 8 4 == x && w.extractLsb' 4 4 == y
  | .ldByte x kk => w.extractLsb' 8 4 == x && w.extractLsb' 0 8 == kk
  | .addByte x kk => w.extractLsb' 8 4 == x && w.extractLsb' 0 8 == kk
  | .ldReg x y => w.extractLsb' 8 4 == x && w.extractLsb' 4 4 == y
  | .orReg x y => w.extractLsb' 8 4 == x && w.extractLsb' 4 4 == y
  | .andReg x y => w.extractLsb' 8 4 == x && w.extractLsb' 4 4 == y
  | .xorReg x y => w.extractLsb' 8 4 == x && w.extractLsb' 4 4 == y
  | .addReg x y => w.extractLsb' 8 4 == x && w.extractLsb' 4 4 == y
  | .subReg x y => w.extractLsb' 8 4 == x && w.extractLsb' 4 4 == y
  | .shr x y => w.extractLsb' 8 4 == x && w.extractLsb' 4 4 == y
  | .subnReg x y => w.extractLsb' 8 4 == x && w.extractLsb' 4 4 == y
  | .shl x y => w.extractLsb' 8 4 == x && w.extractLsb' 4 4 == y
  | .sneReg x y => w.extractLsb' 8 4 == x && w.extractLsb' 4 4 == y
  | .ldI nnn => w.extractLsb' 0 12 == nnn
  | .jpV0 nnn => w.extractLsb' 0 12 == nnn
  | .rnd x kk => w.extractLsb' 8 4 == x && w.extractLsb' 0 8 == kk
  | .drw x y n => w.extractLsb' 8 4 == x && w.extractLsb' 4 4 == y && w.extractLsb' 0 4 == n
  | .skp x => w.extractLsb' 8 4 == x
  | .sknp x => w.extractLsb' 8 4 == x
  | .ldVxDT x => w.extractLsb' 8 4 == x
  | .ldVxK x => w.extractLsb' 8 4 == x
  | .ldDTVx x => w.extractLsb' 8 4 == x
  | .ldSTVx x => w.extractLsb' 8 4 == x
  | .addI x => w.extractLsb' 8 4 == x
  | .ldF x => w.extractLsb' 8 4 == x
  | .ldB x => w.extractLsb' 8 4 == x
  | .storeRegs x => w.extractLsb' 8 4 == x
  | .loadRegs x => w.extractLsb' 8 4 == x

/-- The word spells exactly this instruction: its row admits the word and the word holds its operands. -/
def Instr.spelledBy (w : Word) (i : Instr) : Bool := i.row.admits w && i.fieldsIn w

/-- Well-formedness of an instruction: some word spells it. It holds of every term (a law of the package);
the check that can fail is the one on words above. -/
def Instr.WellFormed (i : Instr) : Prop := ∃ w : Word, i.spelledBy w = true

end Sys2Proof
end

