-- ==== Sys2Proof/Decode.lean ====
section
/-! DEFINITION. Word assembly, the fields of a word, the decoder (total, rejecting by name) and the
encoder (spec/30_encoding.md R50 to R56). -/

namespace Sys2Proof

/-- The word of two bytes in memory order: the first byte is bits 15 to 8 (R50). -/
def wordOfBytes (hi lo : Byte) : Word := hi ++ lo

/-- The byte at the lower address: bits 15 to 8 of the word (R50). -/
def highByte (w : Word) : Byte := w.extractLsb' 8 8

/-- The byte at the higher address: bits 7 to 0 of the word (R50). -/
def lowByte (w : Word) : Byte := w.extractLsb' 0 8

/-- `class`, bits 15 to 12 (R51). -/
def fieldClass (w : Word) : Nibble := w.extractLsb' 12 4
/-- `x`, bits 11 to 8 (R51). -/
def fieldX (w : Word) : Nibble := w.extractLsb' 8 4
/-- `y`, bits 7 to 4 (R51). -/
def fieldY (w : Word) : Nibble := w.extractLsb' 4 4
/-- `n`, bits 3 to 0 (R51). -/
def fieldN (w : Word) : Nibble := w.extractLsb' 0 4
/-- `kk`, bits 7 to 0 (R51). -/
def fieldKK (w : Word) : Byte := w.extractLsb' 0 8
/-- `nnn`, bits 11 to 0 (R51). -/
def fieldNNN (w : Word) : Addr := w.extractLsb' 0 12

/-- Why a word is illegal: the row of R56's table, by opcode class. -/
inductive Illegal where
  /-- any other `0nnn` -/
  | class0
  /-- `5xyN`, `N ≠ 0` -/
  | class5
  /-- `8xyN`, `N` in 8, 9, A, B, C, D, F -/
  | class8
  /-- `9xyN`, `N ≠ 0` -/
  | class9
  /-- `Exkk`, `kk` neither 9E nor A1 -/
  | classE
  /-- `Fxkk`, `kk` none of the nine function bytes -/
  | classF
  deriving DecidableEq, Repr

/-- The answer of `Decode` (R54): an instruction with its field values, or `illegal` with the reason. -/
inductive Decoded where
  | instr (i : Instr)
  | illegal (why : Illegal)
  deriving DecidableEq, Repr

/-- Class 0: two words are legal (R53). -/
def decodeClass0 (w : Word) : Decoded :=
  if w = 0x00E0 then .instr .cls else if w = 0x00EE then .instr .ret else .illegal .class0

/-- Class 8: the register-register operations, selected by the low nibble (R53). -/
def decodeClass8 (x y n : Nibble) : Decoded :=
  if n = 0x0 then .instr (.ldReg x y)
  else if n = 0x1 then .instr (.orReg x y)
  else if n = 0x2 then .instr (.andReg x y)
  else if n = 0x3 then .instr (.xorReg x y)
  else if n = 0x4 then .instr (.addReg x y)
  else if n = 0x5 then .instr (.subReg x y)
  else if n = 0x6 then .instr (.shr x y)
  else if n = 0x7 then .instr (.subnReg x y)
  else if n = 0xE then .instr (.shl x y)
  else .illegal .class8

/-- Class E: the key skips, selected by the low byte (R53). -/
def decodeClassE (x : Nibble) (kk : Byte) : Decoded :=
  if kk = 0x9E then .instr (.skp x)
  else if kk = 0xA1 then .instr (.sknp x)
  else .illegal .classE

/-- Class F: nine forms, selected by the low byte (R53). -/
def decodeClassF (x : Nibble) (kk : Byte) : Decoded :=
  if kk = 0x07 then .instr (.ldVxDT x)
  else if kk = 0x0A then .instr (.ldVxK x)
  else if kk = 0x15 then .instr (.ldDTVx x)
  else if kk = 0x18 then .instr (.ldSTVx x)
  else if kk = 0x1E then .instr (.addI x)
  else if kk = 0x29 then .instr (.ldF x)
  else if kk = 0x33 then .instr (.ldB x)
  else if kk = 0x55 then .instr (.storeRegs x)
  else if kk = 0x65 then .instr (.loadRegs x)
  else .illegal .classF

/-- `Decode(w)`: the class first, then within classes 0, 5, 8, 9, E and F the bits the row's mask covers (R54). -/
def decode (w : Word) : Decoded :=
  match (fieldClass w).toNat with
  | 0x0 => decodeClass0 w
  | 0x1 => .instr (.jp (fieldNNN w))
  | 0x2 => .instr (.call (fieldNNN w))
  | 0x3 => .instr (.seByte (fieldX w) (fieldKK w))
  | 0x4 => .instr (.sneByte (fieldX w) (fieldKK w))
  | 0x5 => if fieldN w = 0 then .instr (.seReg (fieldX w) (fieldY w)) else .illegal .class5
  | 0x6 => .instr (.ldByte (fieldX w) (fieldKK w))
  | 0x7 => .instr (.addByte (fieldX w) (fieldKK w))
  | 0x8 => decodeClass8 (fieldX w) (fieldY w) (fieldN w)
  | 0x9 => if fieldN w = 0 then .instr (.sneReg (fieldX w) (fieldY w)) else .illegal .class9
  | 0xA => .instr (.ldI (fieldNNN w))
  | 0xB => .instr (.jpV0 (fieldNNN w))
  | 0xC => .instr (.rnd (fieldX w) (fieldKK w))
  | 0xD => .instr (.drw (fieldX w) (fieldY w) (fieldN w))
  | 0xE => decodeClassE (fieldX w) (fieldKK w)
  | _ => decodeClassF (fieldX w) (fieldKK w)

/-- The answer of the decoder on a sequence of bytes in memory order. -/
inductive DecodedBytes where
  /-- a legal instruction and the bytes after it -/
  | instr (i : Instr) (rest : List Byte)
  /-- two bytes that are no instruction -/
  | illegal (why : Illegal)
  /-- fewer than the 2 bytes every instruction has (R49) -/
  | truncated
  deriving DecidableEq, Repr

/-- Decode the instruction at the front of any bytes: every instruction is exactly 2 bytes (R49, R50). -/
def decodeBytes : List Byte → DecodedBytes
  | hi :: lo :: rest =>
    match decode (wordOfBytes hi lo) with
    | .instr i => .instr i rest
    | .illegal why => .illegal why
  | _ => .truncated

/-- Format NNN: class, 12 address bits (R52). -/
def encodeNNN (c : Nibble) (nnn : Addr) : Word := c ++ nnn
/-- Format XKK: class, `x`, `kk` (R52); format X is the same with a fixed function byte. -/
def encodeXKK (c x : Nibble) (kk : Byte) : Word := c ++ (x ++ kk)
/-- Format XY: class, `x`, `y`, a fixed function nibble (R52); format XYN is the same with the field `n`. -/
def encodeXYN (c x y n : Nibble) : Word := c ++ (x ++ (y ++ n))

/-- The word of an instruction, from the formats of R52 and the fixed bits of R53. -/
def encode : Instr → Word
  | .cls => 0x00E0
  | .ret => 0x00EE
  | .jp nnn => encodeNNN 0x1 nnn
  | .call nnn => encodeNNN 0x2 nnn
  | .seByte x kk => encodeXKK 0x3 x kk
  | .sneByte x kk => encodeXKK 0x4 x kk
  | .seReg x y => encodeXYN 0x5 x y 0x0
  | .ldByte x kk => encodeXKK 0x6 x kk
  | .addByte x kk => encodeXKK 0x7 x kk
  | .ldReg x y => encodeXYN 0x8 x y 0x0
  | .orReg x y => encodeXYN 0x8 x y 0x1
  | .andReg x y => encodeXYN 0x8 x y 0x2
  | .xorReg x y => encodeXYN 0x8 x y 0x3
  | .addReg x y => encodeXYN 0x8 x y 0x4
  | .subReg x y => encodeXYN 0x8 x y 0x5
  | .shr x y => encodeXYN 0x8 x y 0x6
  | .subnReg x y => encodeXYN 0x8 x y 0x7
  | .shl x y => encodeXYN 0x8 x y 0xE
  | .sneReg x y => encodeXYN 0x9 x y 0x0
  | .ldI nnn => encodeNNN 0xA nnn
  | .jpV0 nnn => encodeNNN 0xB nnn
  | .rnd x kk => encodeXKK 0xC x kk
  | .drw x y n => encodeXYN 0xD x y n
  | .skp x => encodeXKK 0xE x 0x9E
  | .sknp x => encodeXKK 0xE x 0xA1
  | .ldVxDT x => encodeXKK 0xF x 0x07
  | .ldVxK x => encodeXKK 0xF x 0x0A
  | .ldDTVx x => encodeXKK 0xF x 0x15
  | .ldSTVx x => encodeXKK 0xF x 0x18
  | .addI x => encodeXKK 0xF x 0x1E
  | .ldF x => encodeXKK 0xF x 0x29
  | .ldB x => encodeXKK 0xF x 0x33
  | .storeRegs x => encodeXKK 0xF x 0x55
  | .loadRegs x => encodeXKK 0xF x 0x65

/-- The bytes of an instruction in memory order (R50). -/
def encodeBytes (i : Instr) : List Byte := [highByte (encode i), lowByte (encode i)]

/-- The instruction word whose bits, numbered as spec/opcode_table.json numbers them, are the low `nbits`
bits of `w`; every bit above them is 0. -/
def tableWord (nbits w : Nat) : Word := BitVec.ofNat 16 (w % 2 ^ nbits)

/-- What the decoder reads from an instruction whose bits are `w`: the word is laid out as the hardware
stores it, the most significant byte at the lower address (R50), and given to `decodeBytes`. An
instruction has 16 bits (R49): more bits than that are no single instruction. -/
def decodeTableWord (nbits w : Nat) : Option Instr :=
  if 16 < nbits then none
  else
    match decodeBytes [highByte (tableWord nbits w), lowByte (tableWord nbits w)] with
    | .instr i _ => some i
    | .illegal _ => none
    | .truncated => none

end Sys2Proof
end

