-- ==== Sys2Proof/Config.lean ====
section
/-! DEFINITION. What the spec leaves open, as constants with no body: no proof can see their values,
so a statement holds for every value (spec/00_scope.md R6, spec/92_eei_decisions.md D1, D2, D20). -/

namespace Sys2Proof.Config

/-- `INSTR_PER_TICK` less one: an arbitrary natural number (00_scope.md R6; log 3). -/
opaque instrPerTickLessOne : Nat

/-- `INSTR_PER_TICK`, the most instructions one Tick executes: an integer ≥ 1 (00_scope.md R6, D1). -/
def instrPerTick : Nat := instrPerTickLessOne + 1

/-- `BREAK_ON_REDRAW`: whether a Tick stops after an instruction that signals a redraw (00_scope.md R6, D2; log 3). -/
opaque breakOnRedraw : Bool

/-- FREE VALUE. `keys j` is the snapshot of the 16 key lines the caller passes to Tick number `j`,
bit `i` for line `i`, 1 for pressed (60_exceptions.md R116, R121, R124; log 4). -/
opaque keys : Nat → BitVec 16

/-- FREE VALUE. `randomByte j` is the answer of the randomness source to request number `j`
(44_input_timer_random.md R99, 10_state.md R28, D20; log 5). -/
opaque randomByte : Nat → Byte

end Sys2Proof.Config
end

