-- ==== Sys2Proof/Machine/State.lean ====
section
/-! DEFINITION. The state of the block as plain data (spec/10_state.md), the reasons a step can stop, and
the state after reset. -/

namespace Sys2Proof.Machine

/-- The general registers `V[0]` to `V[15]` (10_state.md R13). -/
abbrev RegFile := Vector Byte 16

/-- The framebuffer: 32 rows, top to bottom; bit `c` of a row is the pixel in column `c` (10_state.md R24). -/
abbrev Framebuffer := Vector (BitVec 64) 32

/-- Memory as the list of its bytes that differ from the reset contents, addresses strictly rising
(20_memory.md R32; log 15). -/
abbrev Memory := List Host.Cell

/-- The fault kinds, complete (60_exceptions.md R106). Each is taken as fault entry (R110), which is a NEXT
state with `halted` set and the record written: log 1. -/
inductive FaultKind where
  /-- code 1: the word fetched is no instruction -/
  | invalidOpcode
  /-- code 2: `2nnn` with all 16 entries in use -/
  | stackOverflow
  /-- code 3: `00EE` with no entry in use -/
  | stackUnderflow
  /-- code 4: a Step with `pc > 0xFFE` -/
  | fetchOutOfRange
  /-- code 5: `Ex9E` or `ExA1` with `Vx > 15` -/
  | keyIndexOutOfRange
  deriving DecidableEq, Repr

/-- The fault record: kind, the `pc` at the start of the Step, the word, absent where none was fetched
(10_state.md R26, 60_exceptions.md R110). -/
structure FaultRecord where
  kind : FaultKind
  pc : Word
  word : Option Word
  deriving DecidableEq, Repr

/-- Why the model stops where the spec gives no state at all. The faults the SPEC gives the machine are no
constructor of this type: they are next states (`FaultKind`, log 1). -/
inductive Fault where
  /-- Raised by `2nnn` and `00EE` in a state whose `sp` exceeds 16, a value no rule ever gives `sp`
  (10_state.md R20): there is no such stack entry. No run reaches it. SAFE: the model stops (log 10). -/
  | stackEntryAbsent (sp : Byte)
  deriving DecidableEq, Repr

/-- Why the model gives an instruction no meaning. -/
inductive Refusal where
  /-- Raised by an arm of `exec` whose instruction is not modelled yet; no arm is. SAFE: the model stops. -/
  | notModelled (mnemonic : String)
  deriving DecidableEq, Repr

/-- Everything the spec gives the block (10_state.md R29), the results of the latest Step (R27) and the
progress of the Tick in flight (60_exceptions.md R116). -/
structure State where
  /-- `V[0]` to `V[15]` (R13); `V[15]` is also the flag `VF` (R14) -/
  V : RegFile
  /-- the address register (R16) -/
  I : Word
  /-- the program counter (R17) -/
  pc : Word
  /-- the number of stack entries in use, 0 to 16 (R20) -/
  sp : Byte
  /-- the 16 entries of the call stack (R21) -/
  stack : Vector Word 16
  /-- the delay timer (R22) -/
  DT : Byte
  /-- the sound timer (R23) -/
  ST : Byte
  /-- the 4096 bytes of memory (20_memory.md R32) -/
  mem : Memory
  /-- the framebuffer (R24) -/
  FB : Framebuffer
  /-- the input latch, bit `i` for line `i`, 1 for pressed (R25) -/
  K : BitVec 16
  /-- set by the first fault, cleared only by Load (R26) -/
  halted : Bool
  /-- the fault record (R26) -/
  fault : Option FaultRecord
  /-- result of the latest Step: it signalled a redraw (R27; log 12) -/
  redraw : Bool
  /-- result of the latest Step: a key wait that did not complete (R27; log 12) -/
  blocked : Bool
  /-- `redraw_out` of the Tick in flight or last returned (60_exceptions.md R116, R122; log 12) -/
  redrawOut : Bool
  /-- the MODEL's own: Steps the Tick in flight may still run, 0 between Ticks (log 13) -/
  left : Nat
  /-- the MODEL's own: index of the next key snapshot in `Config.keys` (log 13) -/
  ticks : Nat
  /-- the MODEL's own: index of the next byte in `Config.randomByte` (log 13) -/
  draws : Nat
  deriving DecidableEq, Repr

/-- The state after Load of the empty image (70_reset_and_hazards.md R128, 10_state.md R30): memory lists
nothing, so every byte is its reset content, the glyph table or 0. -/
def State.reset : State where
  V := Vector.replicate 16 0
  I := 0
  pc := 0x200
  sp := 0
  stack := Vector.replicate 16 0
  DT := 0
  ST := 0
  mem := []
  FB := Vector.replicate 32 0
  K := 0
  halted := false
  fault := none
  redraw := false
  blocked := false
  redrawOut := false
  left := 0
  ticks := 0
  draws := 0

end Sys2Proof.Machine
end

