-- ==== Sys2Proof/Machine/Glyph.lean ====
section
/-! DEFINITION. The glyph table and the reset content of every byte of memory (spec/20_memory.md R36, R38). -/

namespace Sys2Proof.Machine

/-- `GLYPH`: 16 glyphs of 5 bytes, glyph `d` at `5 * d`, top row first (20_memory.md R38). PRESUMED: the
source prints no byte of it; the spec takes the customary table (decision D4; log 6). -/
def glyphTable : List Byte :=
  [0xF0, 0x90, 0x90, 0x90, 0xF0] ++ [0x20, 0x60, 0x20, 0x20, 0x70] ++
  [0xF0, 0x10, 0xF0, 0x80, 0xF0] ++ [0xF0, 0x10, 0xF0, 0x10, 0xF0] ++
  [0x90, 0x90, 0xF0, 0x10, 0x10] ++ [0xF0, 0x80, 0xF0, 0x10, 0xF0] ++
  [0xF0, 0x80, 0xF0, 0x90, 0xF0] ++ [0xF0, 0x10, 0x20, 0x40, 0x40] ++
  [0xF0, 0x90, 0xF0, 0x90, 0xF0] ++ [0xF0, 0x90, 0xF0, 0x10, 0xF0] ++
  [0xF0, 0x90, 0xF0, 0x90, 0x90] ++ [0xE0, 0x90, 0xE0, 0x90, 0xE0] ++
  [0xF0, 0x80, 0x80, 0x80, 0xF0] ++ [0xE0, 0x90, 0x90, 0x90, 0xE0] ++
  [0xF0, 0x80, 0xF0, 0x80, 0xF0] ++ [0xF0, 0x80, 0xF0, 0x80, 0x80]

/-- What an unlisted address reads as: the reset content, glyph byte `a` below 80 and 0 elsewhere
(70_reset_and_hazards.md R128; the zero is the spec's decision D5; log 7). -/
def initialByte (a : Nat) : Byte := glyphTable.getD a 0

end Sys2Proof.Machine
end

