-- ==== Sys2Proof/Machine/Ops.lean ====
section
/-! DEFINITION. The named operations over registers, memory, stack, framebuffer and the fault record
(spec/00_scope.md R8, R9; spec/10_state.md; spec/20_memory.md; spec/60_exceptions.md R110). -/

namespace Sys2Proof.Machine

/-- What `exec` and `step` answer. -/
abbrev Result := Host.Outcome State Fault Refusal

/-! ### General registers (10_state.md R13) -/

/-- `V[r]`. -/
def readReg (V : RegFile) (r : Nibble) : Byte := V[r.toNat]'(r.isLt)

/-- `V[r] <- v`. -/
def writeReg (V : RegFile) (r : Nibble) (v : Byte) : RegFile := V.set r.toNat v r.isLt

/-- `V[r]` of a state. -/
def State.reg (s : State) (r : Nibble) : Byte := readReg s.V r

/-- `V[r] <- v` in a state. -/
def State.setReg (s : State) (r : Nibble) (v : Byte) : State := { s with V := writeReg s.V r v }

/-- Replace all 16 registers. -/
def State.setRegs (s : State) (V : RegFile) : State := { s with V := V }

/-! ### Memory (20_memory.md R32, R43, R44) -/

/-- The byte listed at a key, or the reset content of the address. -/
def lookupByte : Memory → Nat → Byte
  | [], a => initialByte a
  | (b, w) :: m, a => if b = a then w else lookupByte m a

/-- List a byte at a key, at its place in the rising order. -/
def insertByte : Memory → Nat → Byte → Memory
  | [], a, v => [(a, v)]
  | (b, w) :: m, a, v =>
    if a < b then (a, v) :: (b, w) :: m
    else if a = b then (a, v) :: m
    else (b, w) :: insertByte m a v

/-- Take every byte at a key off the list. -/
def eraseByte : Memory → Nat → Memory
  | [], _ => []
  | (b, w) :: m, a => if b = a then eraseByte m a else (b, w) :: eraseByte m a

/-- `MemRead(a, 1)` (R43): every one of the 4096 addresses is readable. -/
def readByte (m : Memory) (a : Addr) : Byte := lookupByte m a.toNat

/-- `MemWrite(a, 1, v)` (R44): every address is writable. Writing the reset content takes the entry off,
so that equal memories are equal lists (log 15). -/
def writeByte (m : Memory) (a : Addr) (v : Byte) : Memory :=
  if v = initialByte a.toNat then eraseByte m a.toNat else insertByte m a.toNat v

/-- The entries from `lo` on rise strictly, lie in memory, and differ from the reset contents. -/
def risesFrom : Nat → Memory → Bool
  | _, [] => true
  | lo, (a, v) :: m => decide (lo ≤ a) && decide (a < 4096) && v != initialByte a && risesFrom (a + 1) m

/-- The canonical form of memory (log 15). -/
def Memory.wf (m : Memory) : Bool := risesFrom 0 m

/-- `EA(k) = (I + k) mod 4096`, on unbounded integers before the reduction (R41). -/
def effAddr (I : Word) (k : Nat) : Addr := BitVec.ofNat 12 (I.toNat + k)

/-- Write the bytes `f 0` to `f (n - 1)` at `addr 0` to `addr (n - 1)`, ascending (R35). -/
def writeBytes (addr : Nat → Addr) (f : Nat → Byte) : Nat → Memory → Memory
  | 0, m => m
  | n + 1, m => writeByte (writeBytes addr f n m) (addr n) (f n)

/-! ### The program counter and the fetch (10_state.md R17, R18; 30_encoding.md R50) -/

/-- `pc <- target`. -/
def State.jump (s : State) (target : Word) : State := { s with pc := target }

/-- `pc <- pc + 2`. -/
def State.advance (s : State) : State := s.jump (s.pc + 2)

/-- `pc <- pc + 4` when the condition holds, else `pc <- pc + 2`. -/
def State.skipIf (s : State) (c : Bool) : State := s.jump (if c then s.pc + 4 else s.pc + 2)

/-- Both bytes of the instruction at `pc` lie in memory: `pc ≤ 0xFFE` (20_memory.md R42). -/
def fetchInRange (pc : Word) : Bool := decide (pc.toNat ≤ 0xFFE)

/-- `Fetch16(pc)`: the byte at `pc` is bits 15 to 8, the byte at `pc + 1` bits 7 to 0 (30_encoding.md R50).
Used for `pc ≤ 0xFFE` only. -/
def State.fetchWord (s : State) : Word :=
  wordOfBytes (readByte s.mem (BitVec.ofNat 12 s.pc.toNat)) (readByte s.mem (BitVec.ofNat 12 (s.pc.toNat + 1)))

/-! ### The address register, the timers (10_state.md R16, R22, R23) -/

/-- `I <- v`. -/
def State.setI (s : State) (v : Word) : State := { s with I := v }

/-- `DT <- v`. -/
def State.setDT (s : State) (v : Byte) : State := { s with DT := v }

/-- `ST <- v`. -/
def State.setST (s : State) (v : Byte) : State := { s with ST := v }

/-- Replace memory. -/
def State.setMem (s : State) (m : Memory) : State := { s with mem := m }

/-! ### The call stack (10_state.md R20, R21) -/

/-- `stack[sp] <- entry ; sp <- sp + 1`. Used for `sp < 16` only. -/
def State.push (s : State) (entry : Word) : State :=
  { s with stack := s.stack.setIfInBounds s.sp.toNat entry, sp := s.sp + 1 }

/-- `sp <- sp - 1`: the entry stays in its place. -/
def State.pop (s : State) : State := { s with sp := s.sp - 1 }

/-- `stack[sp - 1]`, the entry a pop reads. Used for `1 ≤ sp ≤ 16` only. -/
def State.topEntry (s : State) : Word := s.stack.getD (s.sp.toNat - 1) 0

/-! ### The framebuffer (10_state.md R24) and the Step results (R27) -/

/-- `FB[row][col]`. -/
def pixel (fb : Framebuffer) (row : Fin 32) (col : Fin 64) : Bool := fb[row].getLsbD col

/-- `FB[row][col] <- FB[row][col] ^ 1`. -/
def flipPixel (fb : Framebuffer) (row : Fin 32) (col : Fin 64) : Framebuffer :=
  fb.set row (fb[row] ^^^ BitVec.twoPow 64 col)

/-- Every pixel 0. -/
def clearFB : Framebuffer := Vector.replicate 32 0

/-- Replace the framebuffer. -/
def State.setFB (s : State) (fb : Framebuffer) : State := { s with FB := fb }

/-- `redraw <- 1`. -/
def State.signalRedraw (s : State) : State := { s with redraw := true }

/-- `redraw <- 0 ; blocked <- 0`, the start of every Step (30_encoding.md R60). -/
def State.clearResults (s : State) : State := { s with redraw := false, blocked := false }

/-! ### The key latch and the random bytes (10_state.md R25, R28) -/

/-- `K[i]`. -/
def keyPressed (K : BitVec 16) (i : Nat) : Bool := K.getLsbD i

/-- The least `i` in 0 to 15 with `K[i] = 1`, if there is one (44_input_timer_random.md R103). -/
def firstPressed (K : BitVec 16) : Option Nat := (List.range 16).find? (keyPressed K)

/-- `RandomByte()`: the next byte of the free sequence (R99; log 5). -/
def State.nextRandom (s : State) : Byte := Config.randomByte s.draws

/-- One byte has been requested. -/
def State.countDraw (s : State) : State := { s with draws := s.draws + 1 }

/-! ### Fault entry (60_exceptions.md R110) -/

/-- `raise F(...)`: the record is written and the block halts; nothing else is written. There is no return
from a fault (R112): only Load leaves the halted state (Machine/Load.lean). -/
def State.raise (s : State) (kind : FaultKind) (word : Option Word) : State :=
  { s with fault := some ⟨kind, s.pc, word⟩, halted := true }

end Sys2Proof.Machine
end

