-- ==== Sys2Proof/Machine/Operands.lean ====
section
/-! DEFINITION. The operand forms: immediates, the computed jump target, the register-indirect addresses of
loads and stores, the decimal digits and the sprite position (spec/30_encoding.md R55, spec/42_index_memory.md
R87, spec/43_display.md R94). -/

namespace Sys2Proof.Machine

/-- `zext_16(nnn)` (30_encoding.md R55). -/
def addrOperand (nnn : Addr) : Word := nnn.setWidth 16

/-- `zext_16(V[x])`. -/
def byteOperand (v : Byte) : Word := v.setWidth 16

/-- `zext_16(V[0]) + zext_16(nnn)`, at most 0x10FE (40_flow.md R67). -/
def indexedTarget (s : State) (nnn : Addr) : Word := byteOperand (s.reg 0) + addrOperand nnn

/-- How many registers `Fx55` and `Fx65` move: 0 to `x` inclusive (30_encoding.md R55). -/
def regCount (x : Nibble) : Nat := x.toNat + 1

/-- The decimal digits of a byte, most significant first: hundreds, tens, ones (42_index_memory.md R91). -/
def decimalDigit (v : Byte) : Nat → Byte
  | 0 => BitVec.ofNat 8 (v.toNat / 100)
  | 1 => BitVec.ofNat 8 (v.toNat / 10 % 10)
  | _ => BitVec.ofNat 8 (v.toNat % 10)

/-- `V[k]` for a register number counted by the instruction, 0 to 15. -/
def countedReg (V : RegFile) (k : Nat) : Byte := readReg V (BitVec.ofNat 4 k)

/-- Memory after `for k from 0 to n - 1: MemWrite(EA(k), 1, V[k])` (42_index_memory.md R92). -/
def storeRegsTo (m : Memory) (I : Word) (V : RegFile) (n : Nat) : Memory :=
  writeBytes (effAddr I) (countedReg V) n m

/-- The registers after `for k from 0 to n - 1: V[k] <- MemRead(EA(k), 1)` (42_index_memory.md R93). -/
def loadRegsFrom (m : Memory) (I : Word) : Nat → RegFile → RegFile
  | 0, V => V
  | n + 1, V => writeReg (loadRegsFrom m I n V) (BitVec.ofNat 4 n) (readByte m (effAddr I n))

/-- `(x0 + c) mod 64` (43_display.md R96). -/
def wrapCol (x0 : Byte) (c : Nat) : Fin 64 := Fin.ofNat 64 (x0.toNat + c)

/-- `(y0 + r) mod 32` (43_display.md R96). -/
def wrapRow (y0 : Byte) (r : Nat) : Fin 32 := Fin.ofNat 32 (y0.toNat + r)

/-- The sprite bit in column `c` of a row byte: bit `7 - c` (43_display.md R94). -/
def spriteBit (b : Byte) (c : Nat) : Bool := b.getLsbD (7 - c)

end Sys2Proof.Machine
end

