-- ==== Sys2Proof/Machine/Flags.lean ====
section
/-! DEFINITION. The flag computations (spec/10_state.md R14, spec/41_alu.md R80 to R86, spec/43_display.md
R96) and the one write of a result and its flag (R73). -/

namespace Sys2Proof.Machine

/-- The register that doubles as the flag, `VF` (10_state.md R14). -/
def regVF : Nibble := 15

/-- A flag as a register value: 1 or 0 (10_state.md R14). -/
def flagByte (f : Bool) : Byte := if f then 1 else 0

/-- Carry out of bit 7: `a + b ≥ 256` (41_alu.md R80). -/
def carryFlag (a b : Byte) : Bool := decide (256 ≤ a.toNat + b.toNat)

/-- No borrow in `a - b`: `a ≥ b` (41_alu.md R81, R83). -/
def noBorrowFlag (a b : Byte) : Bool := decide (b.toNat ≤ a.toNat)

/-- The bit a right shift moves out: bit 0 (41_alu.md R82). -/
def shiftRightFlag (a : Byte) : Bool := a.getLsbD 0

/-- The bit a left shift moves out: bit 7 (41_alu.md R84). -/
def shiftLeftFlag (a : Byte) : Bool := a.getLsbD 7

/-- The result to `V[x]` first and the flag to `VF` second, so that with `x = 15` the register ends holding
the flag (41_alu.md R73, R85, decision D12); then `pc <- pc + 2`. -/
def State.putWithFlag (s : State) (x : Nibble) (result : Byte) (flag : Bool) : State :=
  ((s.setReg x result).setReg regVF (flagByte flag)).advance

end Sys2Proof.Machine
end

