-- ==== Sys2Proof/Machine/Alu.lean ====
section
/-! DEFINITION. Register loads and the 8-bit ALU (spec/41_alu.md). Every instruction ends with `pc <- pc + 2`
and raises no fault (R73). -/

namespace Sys2Proof.Machine

/-- `6xkk` `LD Vx, kk` (R74). -/
def execLdByte (x : Nibble) (kk : Byte) (s : State) : Result := .next (s.setReg x kk).advance

/-- `7xkk` `ADD Vx, kk` (R75): modulo 256, no flag. -/
def execAddByte (x : Nibble) (kk : Byte) (s : State) : Result := .next (s.setReg x (s.reg x + kk)).advance

/-- `8xy0` `LD Vx, Vy` (R76). -/
def execLdReg (x y : Nibble) (s : State) : Result := .next (s.setReg x (s.reg y)).advance

/-- `8xy1` `OR Vx, Vy` (R77): `VF` unchanged (decision D21). -/
def execOrReg (x y : Nibble) (s : State) : Result := .next (s.setReg x (s.reg x ||| s.reg y)).advance

/-- `8xy2` `AND Vx, Vy` (R78): `VF` unchanged (decision D21). -/
def execAndReg (x y : Nibble) (s : State) : Result := .next (s.setReg x (s.reg x &&& s.reg y)).advance

/-- `8xy3` `XOR Vx, Vy` (R79): `VF` unchanged (decision D21). -/
def execXorReg (x y : Nibble) (s : State) : Result := .next (s.setReg x (s.reg x ^^^ s.reg y)).advance

/-- `8xy4` `ADD Vx, Vy` (R80). -/
def execAddReg (x y : Nibble) (s : State) : Result :=
  .next (s.putWithFlag x (s.reg x + s.reg y) (carryFlag (s.reg x) (s.reg y)))

/-- `8xy5` `SUB Vx, Vy` (R81). -/
def execSubReg (x y : Nibble) (s : State) : Result :=
  .next (s.putWithFlag x (s.reg x - s.reg y) (noBorrowFlag (s.reg x) (s.reg y)))

/-- `8xy6` `SHR Vx` (R82): `V[x]` in place, `y` ignored (decisions D11, D24). -/
def execShr (x : Nibble) (s : State) : Result :=
  .next (s.putWithFlag x (s.reg x >>> 1) (shiftRightFlag (s.reg x)))

/-- `8xy7` `SUBN Vx, Vy` (R83): the destination is still `V[x]`. -/
def execSubnReg (x y : Nibble) (s : State) : Result :=
  .next (s.putWithFlag x (s.reg y - s.reg x) (noBorrowFlag (s.reg y) (s.reg x)))

/-- `8xyE` `SHL Vx` (R84): `V[x]` in place, `y` ignored (decisions D11, D24). -/
def execShl (x : Nibble) (s : State) : Result :=
  .next (s.putWithFlag x (s.reg x <<< 1) (shiftLeftFlag (s.reg x)))

end Sys2Proof.Machine
end

