-- ==== Sys2Proof/Machine/Display.lean ====
section
/-! DEFINITION. Framebuffer clear and XOR draw with collision detection (spec/43_display.md). -/

namespace Sys2Proof.Machine

/-- `00E0` `CLS` (R95). -/
def execCls (s : State) : Result := .next (s.setFB clearFB).signalRedraw.advance

/-- The framebuffer being drawn on and whether a set pixel has been unset so far (R96, `hit`). -/
structure Drawing where
  fb : Framebuffer
  hit : Bool
  deriving DecidableEq, Repr

/-- One set sprite bit: note a set pixel about to be unset, then XOR it (R96). -/
def drawPixel (d : Drawing) (row : Fin 32) (col : Fin 64) : Drawing where
  fb := flipPixel d.fb row col
  hit := d.hit || pixel d.fb row col

/-- The first `n` of the 8 columns of sprite row `r`, whose byte is `b` (R96). -/
def drawColumns (b : Byte) (x0 y0 : Byte) (r : Nat) : Nat → Drawing → Drawing
  | 0, d => d
  | c + 1, d =>
    let d' := drawColumns b x0 y0 r c d
    if spriteBit b c then drawPixel d' (wrapRow y0 r) (wrapCol x0 c) else d'

/-- The first `n` rows of the sprite whose row `r` is the byte `sprite r` (R96). -/
def drawRows (sprite : Nat → Byte) (x0 y0 : Byte) : Nat → Drawing → Drawing
  | 0, d => d
  | r + 1, d => drawColumns (sprite r) x0 y0 r 8 (drawRows sprite x0 y0 r d)

/-- Sprite row `r`: `MemRead(EA(r), 1)` (R96). -/
def State.spriteRow (s : State) (r : Nat) : Byte := readByte s.mem (effAddr s.I r)

/-- What `Dxyn` draws: positions are the full 8-bit `V[x]`, `V[y]`, read first (R96). -/
def State.drawing (s : State) (x y n : Nibble) : Drawing :=
  drawRows s.spriteRow (s.reg x) (s.reg y) n.toNat ⟨s.FB, false⟩

/-- `Dxyn` `DRW Vx, Vy, n` (R96): `VF` is always written, after the position was read. -/
def execDrw (x y n : Nibble) (s : State) : Result :=
  let d := s.drawing x y n
  .next ((s.setFB d.fb).setReg regVF (flagByte d.hit)).signalRedraw.advance

end Sys2Proof.Machine
end

