-- ==== Sys2Proof/Machine/Flow.lean ====
section
/-! DEFINITION. Control transfer: return, jumps, call, compare and skip (spec/40_flow.md). -/

namespace Sys2Proof.Machine

/-- `00EE` `RET` (R64): StackUnderflow on an empty stack, else `sp <- sp - 1 ; pc <- stack[sp] + 2`. -/
def execRet (s : State) : Result :=
  if s.sp = 0 then .next (s.raise .stackUnderflow (some (encode .ret)))
  else if 16 < s.sp.toNat then .fault (.stackEntryAbsent s.sp)
  else .next (s.pop.jump (s.topEntry + 2))

/-- `1nnn` `JP nnn` (R65). -/
def execJp (nnn : Addr) (s : State) : Result := .next (s.jump (addrOperand nnn))

/-- `2nnn` `CALL nnn` (R66): StackOverflow on a full stack, else the address of this instruction is pushed. -/
def execCall (nnn : Addr) (s : State) : Result :=
  if s.sp = 16 then .next (s.raise .stackOverflow (some (encode (.call nnn))))
  else if 16 < s.sp.toNat then .fault (.stackEntryAbsent s.sp)
  else .next ((s.push s.pc).jump (addrOperand nnn))

/-- `Bnnn` `JP V0, nnn` (R67): the register is always `V[0]` and the sum is not reduced. -/
def execJpV0 (nnn : Addr) (s : State) : Result := .next (s.jump (indexedTarget s nnn))

/-- `3xkk` `SE Vx, kk` (R68). -/
def execSeByte (x : Nibble) (kk : Byte) (s : State) : Result := .next (s.skipIf (s.reg x == kk))

/-- `4xkk` `SNE Vx, kk` (R69). -/
def execSneByte (x : Nibble) (kk : Byte) (s : State) : Result := .next (s.skipIf (s.reg x != kk))

/-- `5xy0` `SE Vx, Vy` (R70). -/
def execSeReg (x y : Nibble) (s : State) : Result := .next (s.skipIf (s.reg x == s.reg y))

/-- `9xy0` `SNE Vx, Vy` (R71). -/
def execSneReg (x y : Nibble) (s : State) : Result := .next (s.skipIf (s.reg x != s.reg y))

end Sys2Proof.Machine
end

