-- ==== Sys2Proof/Machine/IndexMemory.lean ====
section
/-! DEFINITION. The address register, stores and loads (spec/42_index_memory.md). Every instruction ends with
`pc <- pc + 2`, raises no fault and leaves `I` alone unless it sets it (R87, decision D13). -/

namespace Sys2Proof.Machine

/-- `Annn` `LD I, nnn` (R88). -/
def execLdI (nnn : Addr) (s : State) : Result := .next (s.setI (addrOperand nnn)).advance

/-- `Fx1E` `ADD I, Vx` (R89): modulo 65536, `VF` not written (decision D21). -/
def execAddI (x : Nibble) (s : State) : Result := .next (s.setI (s.I + byteOperand (s.reg x))).advance

/-- `Fx29` `LD F, Vx` (R90): the whole byte is multiplied (decision D23). -/
def execLdF (x : Nibble) (s : State) : Result := .next (s.setI (5 * byteOperand (s.reg x))).advance

/-- `Fx33` `LD B, Vx` (R91): hundreds, tens and ones at `EA(0)`, `EA(1)`, `EA(2)`. -/
def execLdB (x : Nibble) (s : State) : Result :=
  .next (s.setMem (writeBytes (effAddr s.I) (decimalDigit (s.reg x)) 3 s.mem)).advance

/-- `Fx55` `LD [I], Vx` (R92): `V[0]` to `V[x]` at `EA(0)` to `EA(x)`. -/
def execStoreRegs (x : Nibble) (s : State) : Result :=
  .next (s.setMem (storeRegsTo s.mem s.I s.V (regCount x))).advance

/-- `Fx65` `LD Vx, [I]` (R93): `V[0]` to `V[x]` from `EA(0)` to `EA(x)`. -/
def execLoadRegs (x : Nibble) (s : State) : Result :=
  .next (s.setRegs (loadRegsFrom s.mem s.I (regCount x) s.V)).advance

end Sys2Proof.Machine
end

