-- ==== Sys2Proof/Machine/InputTimer.lean ====
section
/-! DEFINITION. Random, key and timer instructions (spec/44_input_timer_random.md). -/

namespace Sys2Proof.Machine

/-- `Cxkk` `RND Vx, kk` (R99): one byte is requested per execution. -/
def execRnd (x : Nibble) (kk : Byte) (s : State) : Result :=
  .next (s.setReg x (s.nextRandom &&& kk)).countDraw.advance

/-- The registers after a key wait: the line found goes to `V[x]`, and with none found nothing is written (R103). -/
def keyWaitRegs (V : RegFile) (x : Nibble) : Option Nat → RegFile
  | some line => writeReg V x (BitVec.ofNat 8 line)
  | none => V

/-- `Ex9E` `SKP Vx` (R100): KeyIndexOutOfRange above 15 (decision D10), else skip if the line is pressed. -/
def execSkp (x : Nibble) (s : State) : Result :=
  if 15 < (s.reg x).toNat then .next (s.raise .keyIndexOutOfRange (some (encode (.skp x))))
  else .next (s.skipIf (keyPressed s.K (s.reg x).toNat))

/-- `ExA1` `SKNP Vx` (R101): KeyIndexOutOfRange above 15 (decision D10), else skip if the line is not pressed. -/
def execSknp (x : Nibble) (s : State) : Result :=
  if 15 < (s.reg x).toNat then .next (s.raise .keyIndexOutOfRange (some (encode (.sknp x))))
  else .next (s.skipIf (!keyPressed s.K (s.reg x).toNat))

/-- `Fx07` `LD Vx, DT` (R102). -/
def execLdVxDT (x : Nibble) (s : State) : Result := .next (s.setReg x s.DT).advance

/-- `Fx0A` `LD Vx, K` (R103): the least pressed line to `V[x]` and `pc + 2`; with none pressed the Step is
`blocked` and nothing else is written (decision D3). -/
def execLdVxK (x : Nibble) (s : State) : Result :=
  .next { s with
    V := keyWaitRegs s.V x (firstPressed s.K)
    pc := if (firstPressed s.K).isSome then s.pc + 2 else s.pc
    blocked := s.blocked || (firstPressed s.K).isNone }

/-- `Fx15` `LD DT, Vx` (R104). -/
def execLdDTVx (x : Nibble) (s : State) : Result := .next (s.setDT (s.reg x)).advance

/-- `Fx18` `LD ST, Vx` (R105). -/
def execLdSTVx (x : Nibble) (s : State) : Result := .next (s.setST (s.reg x)).advance

end Sys2Proof.Machine
end

