-- ==== Sys2Proof/Machine/Sequencer.lean ====
section
/-! DEFINITION. `Step()`, the fetch, decode and execution of one instruction (spec/30_encoding.md R60), and
the actions of a Tick before its first and after its last Step (spec/60_exceptions.md R116 to R118). -/

namespace Sys2Proof.Machine

/-- `Step()` (R60): clear the Step results, check the fetch address, fetch, decode, run the rule. A fault of
the spec is fault entry (60_exceptions.md R110), a next state. Never run when `halted`. -/
def coreStep (s : State) : Result :=
  if fetchInRange s.pc then
    match decode s.fetchWord with
    | .instr i => exec i s.clearResults
    | .illegal _ => .next (s.clearResults.raise .invalidOpcode (some s.fetchWord))
  else .next (s.clearResults.raise .fetchOutOfRange none)

/-- The start of a Tick, when none is in flight (R116): the latch takes the caller's snapshot (a free value,
log 4), `redraw_out` is 0 and the budget is `INSTR_PER_TICK`. Inside a Tick: nothing. -/
def State.beginTick (s : State) : State :=
  { s with
    K := if s.left = 0 then Config.keys s.ticks else s.K
    redrawOut := if s.left = 0 then false else s.redrawOut
    left := if s.left = 0 then Config.instrPerTick else s.left
    ticks := if s.left = 0 then s.ticks + 1 else s.ticks }

/-- The loop of R116 is left after this Step: it faulted, used up the budget, blocked, or signalled a redraw
under `BREAK_ON_REDRAW`. -/
def State.tickOver (s : State) : Bool :=
  s.halted || s.left ≤ 1 || s.blocked || (s.redraw && Config.breakOnRedraw)

/-- One timer at the end of a Tick: less 1 unless it is 0 (R117). -/
def countDown (t : Byte) : Byte := if t = 0 then 0 else t - 1

/-- Right after a Step (R116): `redraw_out` notes a redraw; when the loop is left without a fault both timers
count down (R117); the budget is one less, or 0 when the Tick returns. -/
def State.endStep (s : State) : State :=
  { s with
    redrawOut := s.redrawOut || s.redraw
    DT := if s.tickOver && !s.halted then countDown s.DT else s.DT
    ST := if s.tickOver && !s.halted then countDown s.ST else s.ST
    left := if s.tickOver then 0 else s.left - 1 }

/-- A Tick in the halted state changes nothing and returns `redraw_out = 0` (R118). -/
def State.haltedTick (s : State) : State := { s with redrawOut := false }

/-- What the Tick does after one Step: a fault or refusal of the model stays. -/
def afterStep : Result → Result
  | .next s => .next s.endStep
  | .fault r => .fault r
  | .refused r => .refused r

end Sys2Proof.Machine
end

