-- ==== Sys2Proof/Machine/Step.lean ====
section
/-! DEFINITION. The step of the machine: one Step of the core (spec/30_encoding.md R60) with the actions of
its Tick that fall right before and right after it (spec/60_exceptions.md R116; log 2). -/

namespace Sys2Proof.Machine

/-- One step. In the halted state a Tick that changes nothing (R118). Else one Step, preceded by the start of
a Tick when none is in flight and followed by the end of the Tick when the loop of R116 is left. -/
def step (s : State) : Host.Outcome State Fault Refusal :=
  if s.halted then .next s.haltedTick else afterStep (coreStep s.beginTick)

/-- The state with one instruction word, bits numbered as spec/opcode_table.json numbers them, stored where
`step` fetches its next instruction, most significant byte at the lower address (30_encoding.md R50). The
fetch needs a `pc` of at most 0xFFE and a block that is not halted: where the state has neither, `pc` is the
entry point 0x200 and the halt is cleared, as Load does (log 14). -/
def State.withFetchWord (s : State) (nbits w : Nat) : State :=
  let at_ : Word := if fetchInRange s.pc then s.pc else 0x200
  { s with
    pc := at_
    halted := false
    fault := if s.halted then none else s.fault
    mem := writeByte
      (writeByte s.mem (BitVec.ofNat 12 at_.toNat) (highByte (tableWord nbits w)))
      (BitVec.ofNat 12 (at_.toNat + 1)) (lowByte (tableWord nbits w)) }

end Sys2Proof.Machine
end

