-- ==== Sys2Proof/Machine/Driver.lean ====
section
/-! DEFINITION. `Tick(keys)` as spec/60_exceptions.md R116 writes it, with its two open parameters as
arguments (spec/00_scope.md R6). `step` runs the same Tick one Step at a time. -/

namespace Sys2Proof.Machine

/-- The end of a Tick that did not fault: both timers count down (R117). -/
def State.decrementTimers (s : State) : State := { s with DT := countDown s.DT, ST := countDown s.ST }

/-- `if r.redraw = 1: redraw_out <- 1` (R116). -/
def State.noteRedraw (s : State) : State := { s with redrawOut := s.redrawOut || s.redraw }

/-- The loop of R116 with at most the given number of Steps left, and the timer decrement after it. -/
def tickLoop (breakOnRedraw : Bool) : Nat → State → Result
  | 0, s => .next s.decrementTimers
  | n + 1, s =>
    match coreStep s with
    | .next t =>
      if t.halted then .next t
      else if t.blocked || (t.redraw && breakOnRedraw) then .next t.noteRedraw.decrementTimers
      else tickLoop breakOnRedraw n t.noteRedraw
    | .fault r => .fault r
    | .refused r => .refused r

/-- `Tick(keys)` (R116) for the parameters `INSTR_PER_TICK` and `BREAK_ON_REDRAW`: what it returns to the host
is the framebuffer and `redrawOut` of the state it answers (R122). -/
def tick (instrPerTick : Nat) (breakOnRedraw : Bool) (keys : BitVec 16) (s : State) : Result :=
  if s.halted then .next s.haltedTick
  else tickLoop breakOnRedraw instrPerTick { s with K := keys, redrawOut := false }

end Sys2Proof.Machine
end

