-- ==== Sys2Proof/Machine/Load.lean ====
section
/-! DEFINITION. `Load(image)`, the reset of the block (spec/70_reset_and_hazards.md R128, R131;
spec/60_exceptions.md R120). -/

namespace Sys2Proof.Machine

/-- `MAX_IMAGE` (00_scope.md R5). -/
def maxImage : Nat := 3584

/-- What Load tells its caller. -/
inductive LoadResult where
  /-- the block is reset and the image placed -/
  | loaded (s : State)
  /-- `ImageTooLarge`: no state is changed (60_exceptions.md R120) -/
  | imageTooLarge
  deriving DecidableEq, Repr

/-- Reset memory with the image at 0x200 onward (70 R128). -/
def imageMemory (image : List Byte) : Memory :=
  writeBytes (fun j => BitVec.ofNat 12 (0x200 + j)) (fun j => image.getD j 0) image.length []

/-- `Load(image)` on a block in any state, halted or not (70 R128, R131). Everything the spec gives the block
is reset; the indices of the free inputs go on, so that a second Load does not see the inputs of the first
run again (log 14). -/
def load (image : List Byte) (s : State) : LoadResult :=
  if maxImage < image.length then .imageTooLarge
  else .loaded { State.reset with mem := imageMemory image, ticks := s.ticks, draws := s.draws }

/-- The block after the host has called Load: the state before it where Load failed (60_exceptions.md R120). -/
def State.afterLoad (s : State) (image : List Byte) : State :=
  match load image s with
  | .loaded t => t
  | .imageTooLarge => s

end Sys2Proof.Machine
end

