-- ==== Sys2Proof/Machine/Outputs.lean ====
section
/-! DEFINITION. What the host reads of the block between Ticks (spec/60_exceptions.md R121 to R123, R106).
The block's other outputs are the fields `redrawOut`, `halted` and `fault` of State. -/

namespace Sys2Proof.Machine

/-- `fb_view[r][c]`, all 2048 pixels (R122). -/
def State.fbView (s : State) (row : Fin 32) (col : Fin 64) : Bool := pixel s.FB row col

/-- `sound_on`: 1 exactly when `ST ≠ 0` (R123). -/
def State.soundOn (s : State) : Bool := s.ST != 0

/-- The numeric code of a fault kind (R106, decision D17). -/
def FaultKind.code : FaultKind → Nat
  | .invalidOpcode => 1
  | .stackOverflow => 2
  | .stackUnderflow => 3
  | .fetchOutOfRange => 4
  | .keyIndexOutOfRange => 5

/-- The fault report, valid while `halted`: code, `pc`, and the word or none (R121). -/
def State.faultReport (s : State) : Option (Nat × Word × Option Word) :=
  if s.halted then s.fault.map fun f => (f.kind.code, f.pc, f.word) else none

end Sys2Proof.Machine
end

