-- ==== Sys2Proof/Safety.lean ====
section
/-! DEFINITION. What counts as a legal state and a safe run, and what an instruction may write, in the terms
claims use. -/

namespace Sys2Proof.Machine

/-- The states a run can reach: every bound the spec's prose gives its state. -/
structure State.Inv (s : State) : Prop where
  /-- `sp` counts 0 to 16 entries (10_state.md R20) -/
  spLegal : s.sp.toNat ≤ 16
  /-- every stack entry is 0 or the address of an executed `2nnn`, at most 0xFFE (10_state.md R19, R21) -/
  entriesLegal : ∀ j, j < 16 → (s.stack.getD j 0).toNat ≤ 0xFFE
  /-- every next `pc` is at most 0x10FE (10_state.md R19) -/
  pcLegal : s.pc.toNat ≤ 0x10FE
  /-- memory is in its canonical form (log 15) -/
  memCanonical : s.mem.wf = true
  /-- a fault is recorded exactly when the block is halted (10_state.md R26) -/
  faultIffHalted : s.fault.isSome = s.halted
  /-- a Tick has at most `INSTR_PER_TICK` Steps left (60_exceptions.md R116) -/
  budgetLegal : s.left ≤ Config.instrPerTick
  /-- a halted block has no Tick in flight (60_exceptions.md R116, R118) -/
  haltedBetweenTicks : s.halted = true → s.left = 0

/-- `k` steps from the state run to a state that is not halted. Since the halt is permanent
(60_exceptions.md R112), no step of such a run faults. -/
def State.RunsWithoutFault (s : State) (k : Nat) : Prop :=
  ∃ t : State, Host.Core.run core k s = .next t ∧ t.halted = false

/-- The general registers an instruction may write, its destination and the flag where it has one
(10_state.md R14, R15). -/
def writesReg (r : Nibble) : Instr → Bool
  | .cls => false
  | .ret => false
  | .jp _ => false
  | .call _ => false
  | .seByte _ _ => false
  | .sneByte _ _ => false
  | .seReg _ _ => false
  | .ldByte x _ => r == x
  | .addByte x _ => r == x
  | .ldReg x _ => r == x
  | .orReg x _ => r == x
  | .andReg x _ => r == x
  | .xorReg x _ => r == x
  | .addReg x _ => r == x || r == 15
  | .subReg x _ => r == x || r == 15
  | .shr x _ => r == x || r == 15
  | .subnReg x _ => r == x || r == 15
  | .shl x _ => r == x || r == 15
  | .sneReg _ _ => false
  | .ldI _ => false
  | .jpV0 _ => false
  | .rnd x _ => r == x
  | .drw _ _ _ => r == 15
  | .skp _ => false
  | .sknp _ => false
  | .ldVxDT x => r == x
  | .ldVxK x => r == x
  | .ldDTVx _ => false
  | .ldSTVx _ => false
  | .addI _ => false
  | .ldF _ => false
  | .ldB _ => false
  | .storeRegs _ => false
  | .loadRegs x => decide (r.toNat ≤ x.toNat)

/-- How many bytes an instruction stores, at `EA(0)` onward (20_memory.md R35, R41). -/
def storedBytes : Instr → Nat
  | .ldB _ => 3
  | .storeRegs x => x.toNat + 1
  | _ => 0

/-- The next `pc` of an instruction that does not fault, as the table of 10_state.md R18 gives it, with `pc`
the address of the instruction. -/
def pcTable (s : State) : Instr → Word
  | .jp nnn => nnn.setWidth 16
  | .call nnn => nnn.setWidth 16
  | .jpV0 nnn => (s.reg 0).setWidth 16 + nnn.setWidth 16
  | .ret => s.stack.getD (s.sp.toNat - 1) 0 + 2
  | .seByte x kk => if s.reg x = kk then s.pc + 4 else s.pc + 2
  | .sneByte x kk => if s.reg x ≠ kk then s.pc + 4 else s.pc + 2
  | .seReg x y => if s.reg x = s.reg y then s.pc + 4 else s.pc + 2
  | .sneReg x y => if s.reg x ≠ s.reg y then s.pc + 4 else s.pc + 2
  | .skp x => if s.K.getLsbD (s.reg x).toNat = true then s.pc + 4 else s.pc + 2
  | .sknp x => if s.K.getLsbD (s.reg x).toNat = false then s.pc + 4 else s.pc + 2
  | .ldVxK _ => if s.K = 0 then s.pc else s.pc + 2
  | _ => s.pc + 2

/-- The sprite of `n` rows, whose row `r` is the byte `sprite r`, has a set bit that lands on the pixel in row
`row` and column `col`: bit `7 - c` of row `r` lands on column `(x0 + c) mod 64` and row `(y0 + r) mod 32`
(43_display.md R94, R96). -/
def spriteCovers (sprite : Nat → Byte) (x0 y0 : Byte) (n : Nat) (row : Fin 32) (col : Fin 64) : Prop :=
  ∃ r c : Nat, r < n ∧ c < 8 ∧ (sprite r).getLsbD (7 - c) = true ∧
    (y0.toNat + r) % 32 = row.val ∧ (x0.toNat + c) % 64 = col.val

/-- The word an instruction of class `c` with an `x` and a low byte has, as a number (30_encoding.md R51). -/
def wordXKK (c : Nat) (x : Nibble) (low : Nat) : Word := BitVec.ofNat 16 (c * 4096 + x.toNat * 256 + low)

/-- The word an instruction of class `c` with an `nnn` has, as a number (30_encoding.md R51). -/
def wordNNN (c : Nat) (nnn : Addr) : Word := BitVec.ofNat 16 (c * 4096 + nnn.toNat)

end Sys2Proof.Machine
end

