-- ==== Sys2Proof/Certificates/Slice0/Obligations.lean ====
section
/-! DEFINITION. The statements for the provers. Each docstring names the rule of spec/ it formalises, or the
decision, derivation or log entry it rests on. A result statement gives the next state as an update of the old
one, so it is also that instruction's completion and its frame. -/

open Sys2Proof Sys2Proof.Machine

/-! ### Encoding -/

/-- Decode and encode agree on all 34 forms, with every operand at every value (30_encoding.md sections 2 and 3). -/
def Obligations.DecodeOfEncode : Prop :=
  ∀ i : Instr, decode (encode i) = .instr i ∧
    ∀ rest : List Byte, decodeBytes (encodeBytes i ++ rest) = .instr i rest

/-- 30_encoding.md R53: a word spells the instruction of a row exactly when `w & mask = match`, with the
fields at their bits, and no word matches two rows. -/
def Obligations.DecodeFollowsOpcodeMap : Prop :=
  (∀ (w : Word) (i : Instr), decode w = .instr i ↔ i.spelledBy w = true) ∧
    (∀ (w : Word) (i j : Instr), i.row.admits w = true → j.row.admits w = true → i.row = j.row) ∧
    (∀ i : Instr, i.row ∈ opcodeMap) ∧ opcodeMap.length = 34

/-- The illegal words, class by class, and that executing one raises InvalidOpcode (30_encoding.md section 4). That
the raise writes nothing but the record and the halt is the spec's decision D16 (log 16); that the Step results are
then 0 is the model's choice (log 12). -/
def Obligations.IllegalWordsByClass : Prop :=
  (∀ w : Word, (∃ why, decode w = .illegal why) ↔
    (fieldClass w = 0x0 ∧ w ≠ 0x00E0 ∧ w ≠ 0x00EE) ∨
    (fieldClass w = 0x5 ∧ fieldN w ≠ 0) ∨
    (fieldClass w = 0x9 ∧ fieldN w ≠ 0) ∨
    (fieldClass w = 0x8 ∧ (fieldN w).toNat ∈ [0x8, 0x9, 0xA, 0xB, 0xC, 0xD, 0xF]) ∨
    (fieldClass w = 0xE ∧ (fieldKK w).toNat ∉ [0x9E, 0xA1]) ∨
    (fieldClass w = 0xF ∧
      (fieldKK w).toNat ∉ [0x07, 0x0A, 0x15, 0x18, 0x1E, 0x29, 0x33, 0x55, 0x65])) ∧
  (∀ w : Word, (∃ why, decode w = .illegal why) ↔ ∀ r ∈ opcodeMap, r.admits w = false) ∧
  (∀ s : State, s.pc.toNat ≤ 0xFFE → (∃ why, decode s.fetchWord = .illegal why) →
    coreStep s = .next { s with
      redraw := false, blocked := false, halted := true
      fault := some ⟨.invalidOpcode, s.pc, some s.fetchWord⟩ })

/-- Words written out from the spec's encodings decode to the instructions they stand for, one or more for each
family (95_test_vectors.md E11 and L2-DEC). -/
def Obligations.SampleWordsDecode : Prop :=
  decode 0x00E0 = .instr .cls ∧ decode 0x00EE = .instr .ret ∧ decode 0x1ABC = .instr (.jp 0xABC) ∧
  decode 0x3A7F = .instr (.seByte 10 0x7F) ∧ decode 0x5120 = .instr (.seReg 1 2) ∧
  decode 0x6A05 = .instr (.ldByte 10 5) ∧ decode 0x8AB4 = .instr (.addReg 10 11) ∧
  decode 0x8ABE = .instr (.shl 10 11) ∧ decode 0xD125 = .instr (.drw 1 2 5) ∧
  decode 0xE19E = .instr (.skp 1) ∧ decode 0xF155 = .instr (.storeRegs 1) ∧
  decode 0x0000 = .illegal .class0 ∧ decode 0x8AB8 = .illegal .class8 ∧ decode 0xF1FF = .illegal .classF

/-- 30_encoding.md R50: the byte at `pc` is bits 15 to 8 of the word, the byte at `pc + 1` bits 7 to 0. -/
def Obligations.FetchIsBigEndian : Prop :=
  (∀ s : State, s.pc.toNat ≤ 0xFFE →
    s.fetchWord.toNat =
      (readByte s.mem (s.pc.setWidth 12)).toNat * 256 + (readByte s.mem ((s.pc + 1).setWidth 12)).toNat) ∧
  wordOfBytes 0x6A 0x05 = 0x6A05 ∧ decode 0x6A05 = .instr (.ldByte 0xA 5)

/-! ### Memory -/

/-- 20_memory.md R44: a write sets the byte at its address and changes nothing else, and every one of the 4096
addresses is writable. -/
def Obligations.ReadAfterWrite : Prop :=
  ∀ (m : Memory) (a b : Addr) (v : Byte),
    readByte (writeByte m a v) b = if b = a then v else readByte m b

/-- Equal memories are equal data: two canonical memories that read the same at every address are the same list.
The canonical form is the model's own convention (log 15). -/
def Obligations.CanonicalMemoryIsUnique : Prop :=
  ∀ m m' : Memory, m.wf = true → m'.wf = true → (∀ a : Addr, readByte m a = readByte m' a) → m = m'

/-- The address of every data access wraps at 4096 while `I` keeps its 16 bits (20_memory.md section 4; derived
there from the state rule of `I`). -/
def Obligations.EffectiveAddressWraps : Prop :=
  ∀ (I : Word) (k : Nat), (effAddr I k).toNat = (I.toNat + k) % 4096 ∧
    (effAddr I k).toNat = (I.toNat % 4096 + k) % 4096

/-- Self-modifying code needs no fence: right after `Fx55` has stored two registers, a fetch at those two
addresses gives the word just stored (20_memory.md section 5; derived there). -/
def Obligations.FetchSeesTheStore : Prop :=
  ∀ (s t : State) (x : Nibble) (k : Nat), exec (.storeRegs x) s = .next t → k + 1 ≤ x.toNat →
    (effAddr s.I k).toNat ≤ 0xFFE →
    (State.fetchWord { t with pc := (effAddr s.I k).setWidth 16 }).toNat =
      (readReg s.V (BitVec.ofNat 4 k)).toNat * 256 + (readReg s.V (BitVec.ofNat 4 (k + 1))).toNat

/-! ### The sequencer, faults and the halt -/

/-- The Step clears its results, checks the fetch address (the spec's decision D8), fetches, decodes, and either
raises, which writes `halted` and `fault` only, or runs the rule of the instruction (30_encoding.md section 6). -/
def Obligations.StepSequence : Prop :=
  ∀ s : State,
    (0xFFE < s.pc.toNat → coreStep s = .next { s with
      redraw := false, blocked := false, halted := true, fault := some ⟨.fetchOutOfRange, s.pc, none⟩ }) ∧
    (s.pc.toNat ≤ 0xFFE → ∀ why, decode s.fetchWord = .illegal why → coreStep s = .next { s with
      redraw := false, blocked := false, halted := true
      fault := some ⟨.invalidOpcode, s.pc, some s.fetchWord⟩ }) ∧
    (s.pc.toNat ≤ 0xFFE → ∀ i, decode s.fetchWord = .instr i →
      coreStep s = exec i { s with redraw := false, blocked := false })

/-- A step runs the decoded instruction: when the bytes at `pc` decode to `i`, the step is `exec` of `i` at the
state with the Tick begun where none is in flight, followed by the end actions of the Step (logs 2 and 13). -/
def Obligations.StepRunsDecodedInstruction : Prop :=
  ∀ (s : State) (i : Instr) (rest : List Byte), s.halted = false → s.pc.toNat ≤ 0xFFE →
    decodeBytes (readByte s.mem (s.pc.setWidth 12) :: readByte s.mem ((s.pc + 1).setWidth 12) :: rest) =
      .instr i rest →
    i.WellFormed ∧
    step s = afterStep (exec i { s with
      redraw := false, blocked := false
      K := if s.left = 0 then Config.keys s.ticks else s.K
      redrawOut := if s.left = 0 then false else s.redrawOut
      left := if s.left = 0 then Config.instrPerTick else s.left
      ticks := if s.left = 0 then s.ticks + 1 else s.ticks })

/-- `withFetchWord` places an instruction so that the very next step fetches and runs it, from the reset state
as from any other (log 14). -/
def Obligations.PlacedWordIsFetched : Prop :=
  ∀ (s : State) (w : Nat), w < 65536 →
    (s.withFetchWord 16 w).halted = false ∧ (s.withFetchWord 16 w).pc.toNat ≤ 0xFFE ∧
    (s.withFetchWord 16 w).fetchWord = BitVec.ofNat 16 w ∧
    (∀ i, decodeTableWord 16 w = some i ↔ decode (BitVec.ofNat 16 w) = .instr i)

/-- 60_exceptions.md R107: InvalidOpcode is raised for a fetched word that is no instruction, records `pc` and
the word, and depends on the two fetched bytes alone: no step that fetches an instruction raises it. -/
def Obligations.InvalidOpcodeRaised : Prop :=
  ∀ s : State, s.halted = false → s.fault = none → s.pc.toNat ≤ 0xFFE →
    (wordWellFormed s.fetchWord = false → ∃ t, step s = .next t ∧ t.halted = true ∧
      t.fault = some ⟨.invalidOpcode, s.pc, some s.fetchWord⟩) ∧
    (wordWellFormed s.fetchWord = true → ∀ t f, step s = .next t → t.fault = some f →
      f.kind ≠ .invalidOpcode)

/-- FetchOutOfRange is raised by a Step that starts with `pc > 0xFFE`: it records the `pc` and no word, and
fetch addresses do not wrap (the spec's decision D8). -/
def Obligations.FetchOutOfRangeRaised : Prop :=
  ∀ s : State, s.halted = false → 0xFFE < s.pc.toNat →
    ∃ t, step s = .next t ∧ t.halted = true ∧ t.fault = some ⟨.fetchOutOfRange, s.pc, none⟩ ∧ t.pc = s.pc

/-- StackOverflow and StackUnderflow, each with the `pc` and word of the instruction, neither changing `sp` or the
stack (60_exceptions.md section 1; the full stack at 16 is the spec's decision D15). That nothing else but the halt
changes is the spec's decision D16 (log 16). -/
def Obligations.StackFaultsRaised : Prop :=
  (∀ (s : State) (nnn : Addr), s.sp = 16 → exec (.call nnn) s = .next { s with
    halted := true, fault := some ⟨.stackOverflow, s.pc, some (wordNNN 2 nnn)⟩ }) ∧
  (∀ s : State, s.sp = 0 → exec .ret s = .next { s with
    halted := true, fault := some ⟨.stackUnderflow, s.pc, some 0x00EE⟩ })

/-- KeyIndexOutOfRange: `Ex9E` and `ExA1` with `Vx` above 15 (the spec's decision D10). -/
def Obligations.KeyIndexFaultRaised : Prop :=
  ∀ (s : State) (x : Nibble), 15 < (s.reg x).toNat →
    exec (.skp x) s = .next { s with
      halted := true, fault := some ⟨.keyIndexOutOfRange, s.pc, some (wordXKK 0xE x 0x9E)⟩ } ∧
    exec (.sknp x) s = .next { s with
      halted := true, fault := some ⟨.keyIndexOutOfRange, s.pc, some (wordXKK 0xE x 0xA1)⟩ }

/-- Faults are precise: a Step that halts the block has written nothing but the record, the halt and the cleared
Step results, and the record holds the `pc` the Step started at (the spec's decision D16; derived there). -/
def Obligations.FaultsArePrecise : Prop :=
  ∀ s t : State, s.halted = false → coreStep s = .next t → t.halted = true →
    ∃ (k : FaultKind) (w : Option Word),
      t = { s with redraw := false, blocked := false, halted := true, fault := some ⟨k, s.pc, w⟩ } ∧
      (w = none ↔ k = .fetchOutOfRange) ∧ ∀ v, w = some v → v = s.fetchWord

/-- The halt is permanent: whatever number of steps is run on a halted block, nothing changes but `redraw_out`,
which is 0 after a Tick in the halted state, and a Tick does the same for every key snapshot and parameters (the
spec's decisions D16, D25). -/
def Obligations.HaltedIsFrozen : Prop :=
  ∀ s : State, s.halted = true →
    (∀ k, Host.Core.run core (k + 1) s = .next { s with redrawOut := false }) ∧
    (∀ n b keys, tick n b keys s = .next { s with redrawOut := false })

/-! ### The Tick -/

/-- The latch is replaced wholesale at the start of a Tick, by the caller's snapshot, and by nothing else: inside
a Tick no step changes it (10_state.md section 7, 60_exceptions.md section 3; the snapshots are the free values
of log 4). -/
def Obligations.LatchIsReplacedOncePerTick : Prop :=
  ∀ s t : State, s.halted = false → step s = .next t →
    t.K = (if s.left = 0 then Config.keys s.ticks else s.K) ∧
    t.ticks = (if s.left = 0 then s.ticks + 1 else s.ticks)

/-- At the end of a Tick each timer that is not 0 is decremented by exactly 1, after the last instruction, the two
independently (60_exceptions.md section 3). That a Tick that faults decrements neither is the spec's decision D16,
that a Tick that starts halted decrements neither its decision D25 (log 16). -/
def Obligations.TimersCountDownOncePerTick : Prop :=
  (∀ s t u : State, s.halted = false → coreStep s.beginTick = .next u → step s = .next t →
    (u.halted = false → t.left = 0 →
      t.DT.toNat = (if u.DT = 0 then 0 else u.DT.toNat - 1) ∧
      t.ST.toNat = (if u.ST = 0 then 0 else u.ST.toNat - 1)) ∧
    (u.halted = false → t.left ≠ 0 → t.DT = u.DT ∧ t.ST = u.ST) ∧
    (u.halted = true → t.DT = u.DT ∧ t.ST = u.ST)) ∧
  (∀ s t : State, s.halted = true → step s = .next t → t.DT = s.DT ∧ t.ST = s.ST)

/-- When the Tick returns: after a Step that faulted, blocked, used up the budget, or signalled a redraw under
`BREAK_ON_REDRAW`; otherwise one Step less is left. `redraw_out` says whether a Step of the Tick signalled a
redraw (60_exceptions.md section 3; leaving on `blocked` is the spec's decision D3). -/
def Obligations.TickReturns : Prop :=
  ∀ s t u : State, s.halted = false → coreStep s.beginTick = .next u → step s = .next t →
    t.left = (if u.halted ∨ u.blocked ∨ (u.redraw ∧ Config.breakOnRedraw) then 0
      else s.beginTick.left - 1) ∧
    t.redrawOut = ((if s.left = 0 then false else s.redrawOut) || u.redraw)

/-- The step machine refines the spec's Tick: from between two Ticks, the Tick of the spec with the two open
parameters and the next key snapshot ends in the state that some number of steps, 1 to `INSTR_PER_TICK`, reaches
(60_exceptions.md section 3; log 2). -/
def Obligations.StepsRefineTheTick : Prop :=
  ∀ s t : State, s.halted = false → s.left = 0 →
    tick Config.instrPerTick Config.breakOnRedraw (Config.keys s.ticks) s = .next t →
    ∃ k, 1 ≤ k ∧ k ≤ Config.instrPerTick ∧
      Host.Core.run core k s = .next { t with ticks := s.ticks + 1 }

/-- 60_exceptions.md R123: `sound_on = 1` exactly when `ST ≠ 0`. -/
def Obligations.SoundOnExactlyWhenTimerRuns : Prop :=
  ∀ s : State, s.soundOn = true ↔ s.ST.toNat ≠ 0

/-! ### Control transfer -/

/-- `00EE` with 1 to 16 entries in use: `sp` counts one less and `pc` is the popped entry plus 2; the entry
stays in its place (40_flow.md section 2; what the entry holds is the spec's decision D14). -/
def Obligations.RetReturns : Prop :=
  ∀ s : State, 0 < s.sp.toNat → s.sp.toNat ≤ 16 →
    ∃ (e : Word) (sp' : Byte), s.stack[s.sp.toNat - 1]? = some e ∧ sp'.toNat = s.sp.toNat - 1 ∧
      exec .ret s = .next { s with sp := sp', pc := e + 2 }

/-- 40_flow.md R65: `1nnn` sets `pc` to `nnn` and changes nothing else. -/
def Obligations.JpJumps : Prop :=
  ∀ (s : State) (nnn : Addr), ∃ p : Word, exec (.jp nnn) s = .next { s with pc := p } ∧ p.toNat = nnn.toNat

/-- `2nnn` with 0 to 15 entries in use: the address of the `2nnn` is pushed, `sp` counts one more and `pc` is
`nnn`; the other entries keep their values (40_flow.md section 3; the value pushed is the spec's decision D14). -/
def Obligations.CallPushes : Prop :=
  ∀ (s : State) (nnn : Addr), s.sp.toNat < 16 →
    ∃ (stack' : Vector Word 16) (sp' : Byte) (p : Word),
      exec (.call nnn) s = .next { s with stack := stack', sp := sp', pc := p } ∧
      sp'.toNat = s.sp.toNat + 1 ∧ p.toNat = nnn.toNat ∧ stack'[s.sp.toNat]? = some s.pc ∧
      ∀ j, j ≠ s.sp.toNat → stack'[j]? = s.stack[j]?

/-- 40_flow.md R67: `Bnnn` jumps to `V0 + nnn`, the register always `V[0]`, the sum not reduced. -/
def Obligations.JpV0Jumps : Prop :=
  ∀ (s : State) (nnn : Addr), ∃ p : Word, exec (.jpV0 nnn) s = .next { s with pc := p } ∧
    p.toNat = (s.reg 0).toNat + nnn.toNat

/-- 40_flow.md R68 to R71: the four compare-and-skip instructions, `pc + 4` when the condition holds and `pc + 2`
when not, nothing else changed; `x = y` always or never skips. -/
def Obligations.CompareAndSkip : Prop :=
  ∀ (s : State) (x y : Nibble) (kk : Byte),
    exec (.seByte x kk) s = .next { s with pc := if (s.reg x).toNat = kk.toNat then s.pc + 4 else s.pc + 2 } ∧
    exec (.sneByte x kk) s = .next { s with pc := if (s.reg x).toNat ≠ kk.toNat then s.pc + 4 else s.pc + 2 } ∧
    exec (.seReg x y) s =
      .next { s with pc := if (s.reg x).toNat = (s.reg y).toNat then s.pc + 4 else s.pc + 2 } ∧
    exec (.sneReg x y) s =
      .next { s with pc := if (s.reg x).toNat ≠ (s.reg y).toNat then s.pc + 4 else s.pc + 2 } ∧
    exec (.seReg x x) s = .next { s with pc := s.pc + 4 } ∧
    exec (.sneReg x x) s = .next { s with pc := s.pc + 2 }

/-- Call and return round trip: a `2nnn` at `pc = a` and then, whatever ran between, a `00EE` with the same `sp`
as right after the call and the entry still in place gives `pc = a + 2` and the old `sp` (40_flow.md section 5;
derived there). -/
def Obligations.CallThenRet : Prop :=
  ∀ (s t u : State) (nnn : Addr), s.sp.toNat < 16 → exec (.call nnn) s = .next t → u.sp = t.sp →
    u.stack[s.sp.toNat]? = t.stack[s.sp.toNat]? →
    exec .ret u = .next { u with sp := s.sp, pc := s.pc + 2 }

/-! ### Register loads and the ALU -/

/-- 41_alu.md R74, R75, R76: `6xkk` sets `Vx`, `7xkk` adds modulo 256 with no flag, `8xy0` copies. -/
def Obligations.LoadCopyAndAddImmediate : Prop :=
  ∀ (s : State) (x y : Nibble) (kk : Byte),
    (∃ V, exec (.ldByte x kk) s = .next { s with V := V, pc := s.pc + 2 } ∧
      readReg V x = kk ∧ ∀ r, r ≠ x → readReg V r = readReg s.V r) ∧
    (∃ V, exec (.addByte x kk) s = .next { s with V := V, pc := s.pc + 2 } ∧
      (readReg V x).toNat = ((readReg s.V x).toNat + kk.toNat) % 256 ∧
      ∀ r, r ≠ x → readReg V r = readReg s.V r) ∧
    (∃ V, exec (.ldReg x y) s = .next { s with V := V, pc := s.pc + 2 } ∧
      readReg V x = readReg s.V y ∧ ∀ r, r ≠ x → readReg V r = readReg s.V r)

/-- `8xy1`, `8xy2`, `8xy3`: bitwise OR, AND, XOR into `Vx`; every other register is unchanged, `VF` among them
unless it is the destination (41_alu.md section 3; the unchanged `VF` is the spec's decision D21). -/
def Obligations.LogicOperations : Prop :=
  ∀ (s : State) (x y : Nibble),
    (∃ V, exec (.orReg x y) s = .next { s with V := V, pc := s.pc + 2 } ∧
      (∀ i, (readReg V x).getLsbD i = ((readReg s.V x).getLsbD i || (readReg s.V y).getLsbD i)) ∧
      ∀ r, r ≠ x → readReg V r = readReg s.V r) ∧
    (∃ V, exec (.andReg x y) s = .next { s with V := V, pc := s.pc + 2 } ∧
      (∀ i, (readReg V x).getLsbD i = ((readReg s.V x).getLsbD i && (readReg s.V y).getLsbD i)) ∧
      ∀ r, r ≠ x → readReg V r = readReg s.V r) ∧
    (∃ V, exec (.xorReg x y) s = .next { s with V := V, pc := s.pc + 2 } ∧
      (∀ i, (readReg V x).getLsbD i = ((readReg s.V x).getLsbD i ^^ (readReg s.V y).getLsbD i)) ∧
      ∀ r, r ≠ x → readReg V r = readReg s.V r)

/-- 41_alu.md R80: `8xy4`, with `a` and `b` read first: `VF` is 1 when `a + b ≥ 256` and 0 otherwise, also when
`x` or `y` is 15, and `Vx` is the sum modulo 256 unless `x` is 15. -/
def Obligations.AddWithCarry : Prop :=
  ∀ (s : State) (x y : Nibble), ∃ V, exec (.addReg x y) s = .next { s with V := V, pc := s.pc + 2 } ∧
    (readReg V 15).toNat = (if (readReg s.V x).toNat + (readReg s.V y).toNat ≥ 256 then 1 else 0) ∧
    (x ≠ 15 → (readReg V x).toNat = ((readReg s.V x).toNat + (readReg s.V y).toNat) % 256) ∧
    ∀ r, r ≠ x → r ≠ 15 → readReg V r = readReg s.V r

/-- 41_alu.md R81: `8xy5`, `a - b` modulo 256, `VF` 1 when `a ≥ b`, written last. -/
def Obligations.SubtractNoBorrow : Prop :=
  ∀ (s : State) (x y : Nibble), ∃ V, exec (.subReg x y) s = .next { s with V := V, pc := s.pc + 2 } ∧
    (readReg V 15).toNat = (if (readReg s.V x).toNat ≥ (readReg s.V y).toNat then 1 else 0) ∧
    (x ≠ 15 → ((readReg V x).toNat : Int) = ((readReg s.V x).toNat - (readReg s.V y).toNat : Int) % 256) ∧
    ∀ r, r ≠ x → r ≠ 15 → readReg V r = readReg s.V r

/-- 41_alu.md R83: `8xy7`, `b - a` modulo 256 into `Vx`, `VF` 1 when `b ≥ a`, written last. -/
def Obligations.ReverseSubtractNoBorrow : Prop :=
  ∀ (s : State) (x y : Nibble), ∃ V, exec (.subnReg x y) s = .next { s with V := V, pc := s.pc + 2 } ∧
    (readReg V 15).toNat = (if (readReg s.V y).toNat ≥ (readReg s.V x).toNat then 1 else 0) ∧
    (x ≠ 15 → ((readReg V x).toNat : Int) = ((readReg s.V y).toNat - (readReg s.V x).toNat : Int) % 256) ∧
    ∀ r, r ≠ x → r ≠ 15 → readReg V r = readReg s.V r

/-- `8xy6` and `8xyE` shift `Vx` in place by one, `VF` takes the bit shifted out, and the field `y` plays no part
(41_alu.md section 3; in place and any `y` are the spec's decisions D11, D24). -/
def Obligations.ShiftsInPlace : Prop :=
  ∀ (s : State) (x y : Nibble),
    (∃ V, exec (.shr x y) s = .next { s with V := V, pc := s.pc + 2 } ∧
      (readReg V 15).toNat = (readReg s.V x).toNat % 2 ∧
      (x ≠ 15 → (readReg V x).toNat = (readReg s.V x).toNat / 2) ∧
      ∀ r, r ≠ x → r ≠ 15 → readReg V r = readReg s.V r) ∧
    (∃ V, exec (.shl x y) s = .next { s with V := V, pc := s.pc + 2 } ∧
      (readReg V 15).toNat = (readReg s.V x).toNat / 128 ∧
      (x ≠ 15 → (readReg V x).toNat = (2 * (readReg s.V x).toNat) % 256) ∧
      ∀ r, r ≠ x → r ≠ 15 → readReg V r = readReg s.V r)

/-- The flag is written last: with `x = 15` the five instructions leave `VF` at the flag of the operands read
first, 0 or 1, and the result is lost (the spec's decision D12). -/
def Obligations.FlagIsWrittenLast : Prop :=
  ∀ (s t : State) (y : Nibble) (i : Instr),
    i = .addReg 15 y ∨ i = .subReg 15 y ∨ i = .subnReg 15 y ∨ i = .shr 15 y ∨ i = .shl 15 y →
    exec i s = .next t →
    ((readReg t.V 15).toNat = 1 ↔
      (i = .addReg 15 y ∧ 256 ≤ (readReg s.V 15).toNat + (readReg s.V y).toNat) ∨
      (i = .subReg 15 y ∧ (readReg s.V y).toNat ≤ (readReg s.V 15).toNat) ∨
      (i = .subnReg 15 y ∧ (readReg s.V 15).toNat ≤ (readReg s.V y).toNat) ∨
      (i = .shr 15 y ∧ (readReg s.V 15).toNat % 2 = 1) ∨
      (i = .shl 15 y ∧ 128 ≤ (readReg s.V 15).toNat)) ∧
    (readReg t.V 15).toNat ≤ 1 ∧ ∀ r, r ≠ 15 → readReg t.V r = readReg s.V r

/-- For `8xy5` and `8xy7` the new `Vx` and `VF` together give the true difference (41_alu.md section 4; derived
there). -/
def Obligations.DifferenceIsRecovered : Prop :=
  ∀ (s t : State) (x y : Nibble), x ≠ 15 →
    (exec (.subReg x y) s = .next t →
      ((readReg s.V x).toNat : Int) - (readReg s.V y).toNat =
        (readReg t.V x).toNat - 256 * (1 - (readReg t.V 15).toNat)) ∧
    (exec (.subnReg x y) s = .next t →
      ((readReg s.V y).toNat : Int) - (readReg s.V x).toNat =
        (readReg t.V x).toNat - 256 * (1 - (readReg t.V 15).toNat))

/-! ### The address register, stores and loads -/

/-- 42_index_memory.md R88: `Annn` sets `I` to `nnn` and changes nothing else but `pc`. -/
def Obligations.LoadAddressRegister : Prop :=
  ∀ (s : State) (nnn : Addr), ∃ v : Word,
    exec (.ldI nnn) s = .next { s with I := v, pc := s.pc + 2 } ∧ v.toNat = nnn.toNat

/-- `Fx1E` adds `Vx` to `I` modulo 65536 and writes no flag; `Fx29` sets `I` to 5 times the whole byte `Vx`
(42_index_memory.md section 2; the spec's decisions D21, D23). -/
def Obligations.AddressRegisterArithmetic : Prop :=
  ∀ (s : State) (x : Nibble),
    (∃ v : Word, exec (.addI x) s = .next { s with I := v, pc := s.pc + 2 } ∧
      v.toNat = (s.I.toNat + (s.reg x).toNat) % 65536) ∧
    (∃ v : Word, exec (.ldF x) s = .next { s with I := v, pc := s.pc + 2 } ∧ v.toNat = 5 * (s.reg x).toNat)

/-- 42_index_memory.md R91: `Fx33` stores the hundreds, tens and ones of `Vx` at `EA(0)`, `EA(1)`, `EA(2)`, and
every other byte, `I` and the registers are unchanged. -/
def Obligations.StoreDecimalDigits : Prop :=
  ∀ (s : State) (x : Nibble), ∃ m : Memory, exec (.ldB x) s = .next { s with mem := m, pc := s.pc + 2 } ∧
    (readByte m (effAddr s.I 0)).toNat = (s.reg x).toNat / 100 ∧
    (readByte m (effAddr s.I 1)).toNat = (s.reg x).toNat / 10 % 10 ∧
    (readByte m (effAddr s.I 2)).toNat = (s.reg x).toNat % 10 ∧
    ∀ a, a ≠ effAddr s.I 0 → a ≠ effAddr s.I 1 → a ≠ effAddr s.I 2 → readByte m a = readByte s.mem a

/-- `Fx55` stores `V[0]` to `V[x]` at `EA(0)` to `EA(x)`, and every other byte, `I` and the registers are
unchanged (42_index_memory.md section 3; the unchanged `I` is the spec's decision D13). -/
def Obligations.StoreRegisters : Prop :=
  ∀ (s : State) (x : Nibble), ∃ m : Memory,
    exec (.storeRegs x) s = .next { s with mem := m, pc := s.pc + 2 } ∧
    (∀ r : Nibble, r.toNat ≤ x.toNat → readByte m (effAddr s.I r.toNat) = readReg s.V r) ∧
    ∀ a, (∀ k, k ≤ x.toNat → a ≠ effAddr s.I k) → readByte m a = readByte s.mem a

/-- `Fx65` loads `V[0]` to `V[x]` from `EA(0)` to `EA(x)`; registers above `x`, memory and `I` are unchanged
(42_index_memory.md section 3; the unchanged `I` is the spec's decision D13). -/
def Obligations.LoadRegisters : Prop :=
  ∀ (s : State) (x : Nibble), ∃ V, exec (.loadRegs x) s = .next { s with V := V, pc := s.pc + 2 } ∧
    ∀ r : Nibble, readReg V r =
      if r.toNat ≤ x.toNat then readByte s.mem (effAddr s.I r.toNat) else readReg s.V r

/-! ### Framebuffer -/

/-- 43_display.md R95: `00E0` clears all 2048 pixels, signals a redraw, and leaves `VF` and all else alone. -/
def Obligations.ClearFramebuffer : Prop :=
  ∀ s : State, ∃ fb, exec .cls s = .next { s with FB := fb, redraw := true, pc := s.pc + 2 } ∧
    ∀ row col, pixel fb row col = false

/-- `Dxyn` XORs exactly the pixels the sprite covers, each coordinate wrapped on its own, and sets `VF` to 1 when
a covered pixel was set and to 0 otherwise, also when `x` or `y` is 15 or `n` is 0; nothing else changes
(43_display.md section 3; the unchanged `I` is the spec's decision D13). -/
def Obligations.DrawXorsCoveredPixels : Prop :=
  ∀ (s : State) (x y n : Nibble), ∃ fb V,
    exec (.drw x y n) s = .next { s with FB := fb, V := V, redraw := true, pc := s.pc + 2 } ∧
    (∀ row col, (spriteCovers (fun r => readByte s.mem (effAddr s.I r)) (s.reg x) (s.reg y) n.toNat row col →
        pixel fb row col = !pixel s.FB row col) ∧
      (¬ spriteCovers (fun r => readByte s.mem (effAddr s.I r)) (s.reg x) (s.reg y) n.toNat row col →
        pixel fb row col = pixel s.FB row col)) ∧
    ((readReg V 15).toNat = 1 ↔ ∃ row col, pixel s.FB row col = true ∧
      spriteCovers (fun r => readByte s.mem (effAddr s.I r)) (s.reg x) (s.reg y) n.toNat row col) ∧
    (readReg V 15).toNat ≤ 1 ∧ ∀ r, r ≠ 15 → readReg V r = readReg s.V r

/-- Drawing is an involution with a flag: the same draw twice, with the same `Vx` and `Vy`, restores the
framebuffer, and the second sets `VF` exactly when some covered pixel was 0 before the first (43_display.md
section 4; derived there). The second draw reads the same sprite since `I` is unchanged, the spec's decision D13
(log 16). -/
def Obligations.DrawTwiceRestores : Prop :=
  ∀ (s t u : State) (x y n : Nibble), exec (.drw x y n) s = .next t → t.reg x = s.reg x → t.reg y = s.reg y →
    exec (.drw x y n) t = .next u →
    u.FB = s.FB ∧
    ((u.reg 15).toNat = 1 ↔ ∃ row col, pixel s.FB row col = false ∧
      spriteCovers (fun r => readByte s.mem (effAddr s.I r)) (s.reg x) (s.reg y) n.toNat row col)

/-! ### Random, keys and timers -/

/-- `Cxkk` sets `Vx` to a random byte AND `kk`, for every byte the source may answer: one byte is requested, and
the result has no bit outside `kk` (44_input_timer_random.md section 2; the draw is the spec's decision D20 and
the free value of log 5). -/
def Obligations.RandomIsMasked : Prop :=
  ∀ (s : State) (x : Nibble) (kk : Byte), ∃ V,
    exec (.rnd x kk) s = .next { s with V := V, pc := s.pc + 2, draws := s.draws + 1 } ∧
    readReg V x = Config.randomByte s.draws &&& kk ∧
    (∀ i, kk.getLsbD i = false → (readReg V x).getLsbD i = false) ∧
    ∀ r, r ≠ x → readReg V r = readReg s.V r

/-- `Ex9E` and `ExA1` with `Vx` at most 15: skip when the line `Vx` is pressed, or not pressed; nothing else
changes (44_input_timer_random.md section 3; the limit 15 is the spec's decision D10). -/
def Obligations.KeySkips : Prop :=
  ∀ (s : State) (x : Nibble), (s.reg x).toNat ≤ 15 →
    exec (.skp x) s = .next { s with
      pc := if s.K.getLsbD (s.reg x).toNat = true then s.pc + 4 else s.pc + 2 } ∧
    exec (.sknp x) s = .next { s with
      pc := if s.K.getLsbD (s.reg x).toNat = false then s.pc + 4 else s.pc + 2 }

/-- 44_input_timer_random.md R102, R104, R105: `Fx07` copies `DT` to `Vx`, `Fx15` and `Fx18` copy `Vx` to `DT`
and `ST`; nothing else but `pc` changes. -/
def Obligations.TimerMoves : Prop :=
  ∀ (s : State) (x : Nibble),
    (∃ V, exec (.ldVxDT x) s = .next { s with V := V, pc := s.pc + 2 } ∧
      readReg V x = s.DT ∧ ∀ r, r ≠ x → readReg V r = readReg s.V r) ∧
    exec (.ldDTVx x) s = .next { s with DT := readReg s.V x, pc := s.pc + 2 } ∧
    exec (.ldSTVx x) s = .next { s with ST := readReg s.V x, pc := s.pc + 2 }

/-- `Fx0A`: with a line pressed the least one goes to `Vx` and `pc` advances; with none pressed the Step is
blocked and nothing else changes (44_input_timer_random.md section 4; the spec's decision D3). -/
def Obligations.KeyWait : Prop :=
  ∀ (s : State) (x : Nibble),
    (∀ k, k < 16 → s.K.getLsbD k = true → (∀ j, j < k → s.K.getLsbD j = false) →
      ∃ V, exec (.ldVxK x) s = .next { s with V := V, pc := s.pc + 2 } ∧
        (readReg V x).toNat = k ∧ ∀ r, r ≠ x → readReg V r = readReg s.V r) ∧
    ((∀ k, k < 16 → s.K.getLsbD k = false) → exec (.ldVxK x) s = .next { s with blocked := true })

/-! ### What no instruction does: frames over the whole instruction set -/

/-- 10_state.md R18: the whole table of the next `pc`, and `pc` unchanged by an instruction that raises a fault. -/
def Obligations.NextPcTable : Prop :=
  ∀ (i : Instr) (s t : State), s.halted = false → exec i s = .next t →
    t.pc = if t.halted then s.pc else pcTable s i

/-- Every register but the destination, and `VF` where the instruction has a flag, is unchanged, for every
instruction (10_state.md section 1; derived there). -/
def Obligations.RegisterFrame : Prop :=
  ∀ (i : Instr) (s t : State) (r : Nibble), exec i s = .next t → writesReg r i = false →
    readReg t.V r = readReg s.V r

/-- The six instructions with a flag write 0 or 1 to `VF` whatever their fields; any other instruction that does
not name `VF` as its destination leaves it alone (10_state.md section 1). -/
def Obligations.FlagWriters : Prop :=
  ∀ (s t : State) (i : Instr), exec i s = .next t →
    (∀ x y n : Nibble, i = .addReg x y ∨ i = .subReg x y ∨ i = .subnReg x y ∨ i = .shr x y ∨ i = .shl x y ∨
      i = .drw x y n → readReg t.V 15 = 0 ∨ readReg t.V 15 = 1) ∧
    ((∀ x y n kk, i ≠ .addReg x y ∧ i ≠ .subReg x y ∧ i ≠ .subnReg x y ∧ i ≠ .shr x y ∧ i ≠ .shl x y ∧
      i ≠ .drw x y n ∧ i ≠ .ldByte 15 kk ∧ i ≠ .addByte 15 kk ∧ i ≠ .ldReg 15 y ∧ i ≠ .orReg 15 y ∧
      i ≠ .andReg 15 y ∧ i ≠ .xorReg 15 y ∧ i ≠ .rnd 15 kk ∧ i ≠ .ldVxDT 15 ∧ i ≠ .ldVxK 15 ∧
      i ≠ .loadRegs 15) → readReg t.V 15 = readReg s.V 15)

/-- Every byte of memory is unchanged but the bytes `Fx33` and `Fx55` store, at `EA(0)` onward of the state
before, for every instruction (20_memory.md sections 1 and 2, 42_index_memory.md section 3). -/
def Obligations.MemoryFrame : Prop :=
  ∀ (i : Instr) (s t : State) (a : Addr), exec i s = .next t →
    (∀ k, k < storedBytes i → a ≠ effAddr s.I k) → readByte t.mem a = readByte s.mem a

/-- Which instructions write the other stores and registers: `I` by `Annn`, `Fx1E`, `Fx29`; the stack by `2nnn`,
`sp` by `2nnn` and `00EE`; the framebuffer by `00E0` and `Dxyn`; `DT` by `Fx15`, `ST` by `Fx18`; the latch by
none; the random source asked by `Cxkk`; a redraw signalled by `00E0` and `Dxyn`, a Step blocked by `Fx0A`; the
halt and the record by the four that can raise (10_state.md sections 2 to 8). -/
def Obligations.SpecialStateWriters : Prop :=
  ∀ (i : Instr) (s t : State), exec i s = .next t →
    ((∀ nnn x, i ≠ .ldI nnn ∧ i ≠ .addI x ∧ i ≠ .ldF x) → t.I = s.I) ∧
    ((∀ nnn, i ≠ .call nnn) → t.stack = s.stack) ∧
    ((∀ nnn, i ≠ .call nnn ∧ i ≠ .ret) → t.sp = s.sp) ∧
    ((∀ x y n, i ≠ .cls ∧ i ≠ .drw x y n) → t.FB = s.FB ∧ t.redraw = s.redraw) ∧
    ((∀ x, i ≠ .ldDTVx x) → t.DT = s.DT) ∧
    ((∀ x, i ≠ .ldSTVx x) → t.ST = s.ST) ∧
    t.K = s.K ∧
    ((∀ x kk, i ≠ .rnd x kk) → t.draws = s.draws) ∧
    ((∀ x, i ≠ .ldVxK x) → t.blocked = s.blocked) ∧
    ((∀ nnn x, i ≠ .ret ∧ i ≠ .call nnn ∧ i ≠ .skp x ∧ i ≠ .sknp x) →
      t.halted = s.halted ∧ t.fault = s.fault)

/-! ### Invariants -/

/-- The reset state meets the invariant (10_state.md section 9). -/
def Obligations.InvariantAtReset : Prop := State.reset.Inv

/-- Every step keeps the invariant, from every state that meets it: `sp` counts 0 to 16 entries, every stack
entry is a fetchable address, `pc` is at most 0x10FE, memory stays canonical, a fault is recorded exactly when
the block is halted, and the budget of the Tick is within `INSTR_PER_TICK` (10_state.md sections 3, 4 and 8;
derived there; the canonical form is log 15). -/
def Obligations.InvariantKeptByStep : Prop :=
  ∀ s t : State, s.Inv → step s = .next t → t.Inv

/-- From every state that meets the invariant, hence from every state a run reaches, a step answers a next
state: the model stops nowhere, whatever memory, registers and keys hold (the fault of log 10 is unreachable). -/
def Obligations.StepNeverStops : Prop :=
  ∀ (k : Nat) (s : State), s.Inv → ∃ t : State, Host.Core.run core k s = .next t ∧ t.Inv

/-! ### Reset -/

/-- What Load of an image of at most 3584 bytes leaves, in whatever state the block was: the complete reset
table, memory byte by byte (70_reset_and_hazards.md section 1; the zeroes outside glyphs and image, the clear
framebuffer and the latch are the spec's decisions D5, D6, D7; the glyph bytes D4 and log 6). -/
def Obligations.LoadResets : Prop :=
  ∀ (s : State) (image : List Byte), image.length ≤ 3584 →
    ∃ t : State, load image s = .loaded t ∧ (∀ r, readReg t.V r = 0) ∧ t.I = 0 ∧ t.pc = 0x200 ∧ t.sp = 0 ∧
      (∀ j, j < 16 → t.stack[j]? = some 0) ∧ t.DT = 0 ∧ t.ST = 0 ∧
      (∀ a : Addr, readByte t.mem a =
        if a.toNat < 80 then glyphTable.getD a.toNat 0
        else if 0x200 ≤ a.toNat ∧ a.toNat < 0x200 + image.length then image.getD (a.toNat - 0x200) 0
        else 0) ∧
      (∀ row col, pixel t.FB row col = false) ∧ t.K = 0 ∧ t.halted = false ∧ t.fault = none ∧ t.Inv

/-- 20_memory.md R39: Load copies the image to 0x200 onward; an image of 3584 bytes loads and one of 3585 does
not. -/
def Obligations.LoadPlacesImage : Prop :=
  (∀ (s : State) (image : List Byte), image.length ≤ 3584 →
    ∃ t, load image s = .loaded t ∧ ∀ j : Nat, ∀ b : Byte, image[j]? = some b →
      readByte t.mem (BitVec.ofNat 12 (0x200 + j)) = b) ∧
  (∀ (s : State) (image : List Byte), 3584 < image.length → load image s = .imageTooLarge)

/-- A failed Load keeps the state, a successful one leaves the halted state, and the reset state is what Load of
the empty image leaves on a block fresh from reset (the spec's decision D26; log 14). -/
def Obligations.LoadAgain : Prop :=
  (∀ (s : State) (image : List Byte), 3584 < image.length → s.afterLoad image = s) ∧
  (∀ (s : State) (image : List Byte), image.length ≤ 3584 → (s.afterLoad image).halted = false ∧
    (s.afterLoad image).pc = 0x200 ∧ (s.afterLoad image).left = 0) ∧
  State.reset.afterLoad [] = State.reset
end

