-- ==== Sys2Proof/Laws/Decode.lean ====
section
/-! SUPPORT. The fields of an encoded word (spec/30_encoding.md R51, R52), format by format, and the bytes of
a word (R50). -/

namespace Sys2Proof

theorem word_ext_nat {n : Nat} {a b : BitVec n} (h : a.toNat = b.toNat) : a = b := BitVec.eq_of_toNat_eq h

theorem encodeNNN_toNat (c : Nibble) (nnn : Addr) : (encodeNNN c nnn).toNat = c.toNat * 4096 + nnn.toNat := by
  have := nnn.isLt
  simp only [encodeNNN, BitVec.toNat_append]
  rw [← Nat.shiftLeft_add_eq_or_of_lt this, Nat.shiftLeft_eq]

theorem encodeXKK_toNat (c x : Nibble) (kk : Byte) :
    (encodeXKK c x kk).toNat = c.toNat * 4096 + x.toNat * 256 + kk.toNat := by
  have hk := kk.isLt
  have hx := x.isLt
  simp only [encodeXKK, BitVec.toNat_append]
  rw [← Nat.shiftLeft_add_eq_or_of_lt hk, ← Nat.shiftLeft_add_eq_or_of_lt (by rw [Nat.shiftLeft_eq]; omega),
    Nat.shiftLeft_eq, Nat.shiftLeft_eq]
  omega

theorem encodeXYN_toNat (c x y n : Nibble) :
    (encodeXYN c x y n).toNat = c.toNat * 4096 + x.toNat * 256 + y.toNat * 16 + n.toNat := by
  have hn := n.isLt
  have hy := y.isLt
  have hyn : (y ++ n : Byte).toNat = y.toNat * 16 + n.toNat := by
    rw [BitVec.toNat_append, ← Nat.shiftLeft_add_eq_or_of_lt hn, Nat.shiftLeft_eq]
  rw [show encodeXYN c x y n = encodeXKK c x (y ++ n) from rfl, encodeXKK_toNat, hyn]
  omega

/-- A field as a number: the bits from `start` on, `len` of them. -/
theorem field_toNat (w : Word) (start len : Nat) :
    (w.extractLsb' start len).toNat = w.toNat / 2 ^ start % 2 ^ len := by
  simp [BitVec.extractLsb'_toNat, Nat.shiftRight_eq_div_pow]

theorem fieldClass_encodeNNN (c : Nibble) (nnn : Addr) : fieldClass (encodeNNN c nnn) = c :=
  word_ext_nat (by
    have := nnn.isLt; have := c.isLt
    simp only [fieldClass, field_toNat, encodeNNN_toNat]; omega)

theorem fieldNNN_encodeNNN (c : Nibble) (nnn : Addr) : fieldNNN (encodeNNN c nnn) = nnn :=
  word_ext_nat (by
    have := nnn.isLt; have := c.isLt
    simp only [fieldNNN, field_toNat, encodeNNN_toNat]; omega)

theorem fieldClass_encodeXKK (c x : Nibble) (kk : Byte) : fieldClass (encodeXKK c x kk) = c :=
  word_ext_nat (by
    have := kk.isLt; have := x.isLt; have := c.isLt
    simp only [fieldClass, field_toNat, encodeXKK_toNat]; omega)

theorem fieldX_encodeXKK (c x : Nibble) (kk : Byte) : fieldX (encodeXKK c x kk) = x :=
  word_ext_nat (by
    have := kk.isLt; have := x.isLt; have := c.isLt
    simp only [fieldX, field_toNat, encodeXKK_toNat]; omega)

theorem fieldKK_encodeXKK (c x : Nibble) (kk : Byte) : fieldKK (encodeXKK c x kk) = kk :=
  word_ext_nat (by
    have := kk.isLt; have := x.isLt; have := c.isLt
    simp only [fieldKK, field_toNat, encodeXKK_toNat]; omega)

theorem fieldClass_encodeXYN (c x y n : Nibble) : fieldClass (encodeXYN c x y n) = c :=
  word_ext_nat (by
    have := n.isLt; have := y.isLt; have := x.isLt; have := c.isLt
    simp only [fieldClass, field_toNat, encodeXYN_toNat]; omega)

theorem fieldX_encodeXYN (c x y n : Nibble) : fieldX (encodeXYN c x y n) = x :=
  word_ext_nat (by
    have := n.isLt; have := y.isLt; have := x.isLt; have := c.isLt
    simp only [fieldX, field_toNat, encodeXYN_toNat]; omega)

theorem fieldY_encodeXYN (c x y n : Nibble) : fieldY (encodeXYN c x y n) = y :=
  word_ext_nat (by
    have := n.isLt; have := y.isLt; have := x.isLt; have := c.isLt
    simp only [fieldY, field_toNat, encodeXYN_toNat]; omega)

theorem fieldN_encodeXYN (c x y n : Nibble) : fieldN (encodeXYN c x y n) = n :=
  word_ext_nat (by
    have := n.isLt; have := y.isLt; have := x.isLt; have := c.isLt
    simp only [fieldN, field_toNat, encodeXYN_toNat]; omega)

/-! ### Masking an encoded word with the masks of R53 -/

theorem and_encodeNNN (c d : Nibble) (a b : Addr) :
    encodeNNN c a &&& encodeNNN d b = encodeNNN (c &&& d) (a &&& b) := BitVec.and_append

theorem and_encodeXKK (c d x y : Nibble) (a b : Byte) :
    encodeXKK c x a &&& encodeXKK d y b = encodeXKK (c &&& d) (x &&& y) (a &&& b) := by
  refine (and_encodeNNN c d (x ++ a) (y ++ b)).trans ?_
  exact congrArg (encodeNNN (c &&& d)) BitVec.and_append

theorem and_encodeXYN (c d x x' y y' n n' : Nibble) :
    encodeXYN c x y n &&& encodeXYN d x' y' n' = encodeXYN (c &&& d) (x &&& x') (y &&& y') (n &&& n') := by
  refine (and_encodeXKK c d x x' (y ++ n) (y' ++ n')).trans ?_
  exact congrArg (encodeXKK (c &&& d) (x &&& x')) BitVec.and_append

theorem and_ones4 (c : Nibble) : c &&& 0xF = c := BitVec.and_allOnes

theorem and_zero4 (c : Nibble) : c &&& 0 = 0 := BitVec.and_zero

theorem and_zero12 (a : Addr) : a &&& 0 = 0 := BitVec.and_zero

theorem and_ones8 (k : Byte) : k &&& 0xFF = k := BitVec.and_allOnes

theorem mask_encodeNNN (c : Nibble) (nnn : Addr) : encodeNNN c nnn &&& 0xF000 = encodeNNN c 0 := by
  rw [show (0xF000 : Word) = encodeNNN 0xF 0 by decide, and_encodeNNN, and_ones4, and_zero12]

theorem mask_encodeXKK (c x : Nibble) (kk : Byte) : encodeXKK c x kk &&& 0xF000 = encodeNNN c 0 :=
  mask_encodeNNN c (x ++ kk)

theorem mask_encodeXYN (c x y n : Nibble) : encodeXYN c x y n &&& 0xF000 = encodeNNN c 0 :=
  mask_encodeNNN c (x ++ (y ++ n))

theorem mask_function_nibble (c x y n : Nibble) : encodeXYN c x y n &&& 0xF00F = encodeXYN c 0 0 n := by
  rw [show (0xF00F : Word) = encodeXYN 0xF 0 0 0xF by decide, and_encodeXYN]
  simp only [and_ones4, and_zero4]

theorem mask_function_byte (c x : Nibble) (kk : Byte) : encodeXKK c x kk &&& 0xF0FF = encodeXKK c 0 kk := by
  rw [show (0xF0FF : Word) = encodeXKK 0xF 0 0xFF by decide, and_encodeXKK, and_ones4, and_ones8,
    and_zero4]

/-! ### Every word is a word of each format -/

theorem word_eq_encodeNNN (w : Word) : w = encodeNNN (fieldClass w) (fieldNNN w) :=
  word_ext_nat (by
    have := w.isLt
    simp only [encodeNNN_toNat, fieldClass, fieldNNN, field_toNat]; omega)

theorem word_eq_encodeXKK (w : Word) : w = encodeXKK (fieldClass w) (fieldX w) (fieldKK w) :=
  word_ext_nat (by
    have := w.isLt
    simp only [encodeXKK_toNat, fieldClass, fieldX, fieldKK, field_toNat]; omega)

theorem word_eq_encodeXYN (w : Word) : w = encodeXYN (fieldClass w) (fieldX w) (fieldY w) (fieldN w) :=
  word_ext_nat (by
    have := w.isLt
    simp only [encodeXYN_toNat, fieldClass, fieldX, fieldY, fieldN, field_toNat]; omega)

/-- The two bytes of a word, joined, are the word (R50). -/
theorem wordOfBytes_bytes (w : Word) : wordOfBytes (highByte w) (lowByte w) = w :=
  word_ext_nat (by
    have := w.isLt
    simp only [wordOfBytes, highByte, lowByte, BitVec.toNat_append, field_toNat]
    rw [← Nat.shiftLeft_add_eq_or_of_lt (by omega), Nat.shiftLeft_eq]
    omega)

end Sys2Proof
end

