-- ==== Sys2Proof/Laws/Display.lean ====
section
/-! SUPPORT. The laws of the framebuffer operations (spec/10_state.md R24, spec/43_display.md R94 to R96). -/

namespace Sys2Proof.Machine

/-- Flipping a pixel inverts it and leaves every other pixel alone. -/
theorem pixel_flipPixel (fb : Framebuffer) (row row' : Fin 32) (col col' : Fin 64) :
    pixel (flipPixel fb row col) row' col' = (pixel fb row' col' ^^ (decide (row' = row) && decide (col' = col))) := by
  unfold pixel flipPixel
  by_cases hr : row' = row
  · subst hr
    simp [Fin.ext_iff, eq_comm]
  · have hv : row.val ≠ row'.val := fun e => hr (Fin.ext e.symm)
    simp [hr, Vector.getElem_set_ne, hv]

/-- Every pixel of the cleared framebuffer is 0. -/
theorem pixel_clearFB (row : Fin 32) (col : Fin 64) : pixel clearFB row col = false := by
  simp [pixel, clearFB]

/-- Framebuffers are equal when all their pixels are. -/
theorem framebuffer_ext {f g : Framebuffer} (h : ∀ row col, pixel f row col = pixel g row col) : f = g := by
  apply Vector.ext
  intro i hi
  apply BitVec.eq_of_getLsbD_eq
  intro j hj
  exact h ⟨i, hi⟩ ⟨j, hj⟩

/-- Drawing a row or rows only ever adds a collision to the ones seen before. -/
theorem drawPixel_fb (d : Drawing) (row : Fin 32) (col : Fin 64) :
    (drawPixel d row col).fb = flipPixel d.fb row col := rfl

theorem drawPixel_hit (d : Drawing) (row : Fin 32) (col : Fin 64) :
    (drawPixel d row col).hit = (d.hit || pixel d.fb row col) := rfl

/-- A sprite of no rows draws nothing (43_display.md R96). -/
theorem drawRows_zero (sprite : Nat → Byte) (x0 y0 : Byte) (d : Drawing) : drawRows sprite x0 y0 0 d = d := rfl

open Classical

/-- What the first `n` columns of a sprite row do: flip exactly the pixels under a set bit, and note a hit when one
of them was set. -/
theorem drawColumns_spec (b x0 y0 : Byte) (r : Nat) (n : Nat) (hn : n ≤ 8) (d : Drawing) :
    (∀ row col, pixel (drawColumns b x0 y0 r n d).fb row col =
      (pixel d.fb row col ^^ decide (∃ c, c < n ∧ b.getLsbD (7 - c) = true ∧ wrapRow y0 r = row ∧ wrapCol x0 c = col))) ∧
    ((drawColumns b x0 y0 r n d).hit = (d.hit || decide (∃ c, c < n ∧ b.getLsbD (7 - c) = true ∧ pixel d.fb (wrapRow y0 r) (wrapCol x0 c) = true))) := by
  induction n with
  | zero => simp [drawColumns]
  | succ n ih =>
    obtain ⟨ih1, ih2⟩ := ih (by omega)
    have hwc : ∀ c, c < n → wrapCol x0 c ≠ wrapCol x0 n := by
      intro c hc e
      have := congrArg Fin.val e
      simp [wrapCol] at this; omega
    by_cases hb : b.getLsbD (7 - n) = true
    · have hd : drawColumns b x0 y0 r (n+1) d = drawPixel (drawColumns b x0 y0 r n d) (wrapRow y0 r) (wrapCol x0 n) := by
        rw [drawColumns]; simp [spriteBit, hb]
      rw [hd]
      constructor
      · intro row col
        rw [drawPixel_fb, pixel_flipPixel, ih1]
        rw [Bool.xor_assoc]; congr 1
        rw [← Bool.decide_and, Bool.eq_iff_iff]
        by_cases h1 : row = wrapRow y0 r ∧ col = wrapCol x0 n
        · obtain ⟨rfl, rfl⟩ := h1
          have : ¬ ∃ c, c < n ∧ b.getLsbD (7 - c) = true ∧ wrapRow y0 r = wrapRow y0 r ∧ wrapCol x0 c = wrapCol x0 n := by
            rintro ⟨c, hc, _, _, e⟩; exact hwc c hc e
          rw [decide_eq_false this]
          simp
          exact ⟨n, by omega, hb, rfl⟩
        · rw [decide_eq_false h1]
          simp
          constructor
          · rintro ⟨c, hc, h⟩; exact ⟨c, by omega, h⟩
          · rintro ⟨c, hc, hbc, hr, hcc⟩
            rcases (show c < n ∨ c = n by omega) with h | h
            · exact ⟨c, h, hbc, hr, hcc⟩
            · subst h; exact absurd ⟨hr.symm, hcc.symm⟩ h1
      · rw [drawPixel_hit, ih2, ih1, Bool.or_assoc]; congr 1
        have : ¬ ∃ c, c < n ∧ b.getLsbD (7 - c) = true ∧ wrapRow y0 r = wrapRow y0 r ∧ wrapCol x0 c = wrapCol x0 n := by
            rintro ⟨c, hc, _, _, e⟩; exact hwc c hc e
        rw [decide_eq_false this, Bool.xor_false, Bool.eq_iff_iff]
        simp
        constructor
        · rintro (⟨c, hc, h⟩ | h)
          · exact ⟨c, by omega, h⟩
          · exact ⟨n, by omega, hb, h⟩
        · rintro ⟨c, hc, h⟩
          rcases (show c < n ∨ c = n by omega) with h' | h'
          · exact .inl ⟨c, h', h⟩
          · subst h'; exact .inr h.2
    · have hd : drawColumns b x0 y0 r (n+1) d = (drawColumns b x0 y0 r n d) := by
        rw [drawColumns]; simp [spriteBit, hb]
      have hex : ∀ P : Nat → Prop, (∃ c, c < n + 1 ∧ b.getLsbD (7 - c) = true ∧ P c) ↔ (∃ c, c < n ∧ b.getLsbD (7 - c) = true ∧ P c) := by
        intro P
        constructor
        · rintro ⟨c, hc, h⟩
          rcases (show c < n ∨ c = n by omega) with h' | h'
          · exact ⟨c, h', h⟩
          · subst h'; exact absurd h.1 hb
        · rintro ⟨c, hc, h⟩; exact ⟨c, by omega, h⟩
      rw [hd]
      refine ⟨fun row col => ?_, ?_⟩
      · rw [ih1]; congr 1; simp only [hex]
      · rw [ih2]; congr 1; simp only [hex]

/-- What the first `n` rows of a sprite do: flip exactly the pixels under a set bit, each once since no two rows or
columns wrap onto each other, and note a hit when one of them was set before. -/
theorem drawRows_spec (sp : Nat → Byte) (x0 y0 : Byte) (n : Nat) (hn : n ≤ 32) (d : Drawing) :
    (∀ row col, pixel (drawRows sp x0 y0 n d).fb row col =
      (pixel d.fb row col ^^ decide (∃ r c, r < n ∧ c < 8 ∧ (sp r).getLsbD (7 - c) = true ∧ wrapRow y0 r = row ∧ wrapCol x0 c = col))) ∧
    ((drawRows sp x0 y0 n d).hit = (d.hit || decide (∃ r c, r < n ∧ c < 8 ∧ (sp r).getLsbD (7 - c) = true ∧ pixel d.fb (wrapRow y0 r) (wrapCol x0 c) = true))) := by
  induction n with
  | zero => simp [drawRows]
  | succ n ih =>
    obtain ⟨ih1, ih2⟩ := ih (by omega)
    have hwc : ∀ c, c < n → wrapRow y0 c ≠ wrapRow y0 n := by
      intro c hc e
      have := congrArg Fin.val e
      simp [wrapRow] at this; omega
    rw [drawRows]
    obtain ⟨c1, c2⟩ := drawColumns_spec (sp n) x0 y0 n 8 (by omega) (drawRows sp x0 y0 n d)
    constructor
    · intro row col
      rw [c1, ih1, Bool.xor_assoc]; congr 1
      rw [Bool.eq_iff_iff]
      by_cases h1 : ∃ c, c < 8 ∧ (sp n).getLsbD (7 - c) = true ∧ wrapRow y0 n = row ∧ wrapCol x0 c = col
      · rw [decide_eq_true h1]
        obtain ⟨c, hc, hb, hr, hcc⟩ := h1
        have : ¬ ∃ r c, r < n ∧ c < 8 ∧ (sp r).getLsbD (7 - c) = true ∧ wrapRow y0 r = row ∧ wrapCol x0 c = col := by
          rintro ⟨r', c', h, _, _, e, _⟩; exact hwc r' h (e.trans hr.symm)
        rw [decide_eq_false this]
        simp
        exact ⟨n, by omega, c, hc, hb, hr, hcc⟩
      · rw [decide_eq_false h1]
        simp
        constructor
        · rintro ⟨r, hr, h⟩; exact ⟨r, by omega, h⟩
        · rintro ⟨r, hr, h⟩
          rcases (show r < n ∨ r = n by omega) with h' | h'
          · exact ⟨r, h', h⟩
          · subst h'; exact absurd h h1
    · rw [c2, ih2, Bool.or_assoc]; congr 1
      have : ∀ c, pixel (drawRows sp x0 y0 n d).fb (wrapRow y0 n) (wrapCol x0 c) = pixel d.fb (wrapRow y0 n) (wrapCol x0 c) := by
        intro c
        rw [ih1]
        have : ¬ ∃ r c', r < n ∧ c' < 8 ∧ (sp r).getLsbD (7 - c') = true ∧ wrapRow y0 r = wrapRow y0 n ∧ wrapCol x0 c' = wrapCol x0 c := by
          rintro ⟨r', c', h, _, _, e, _⟩; exact hwc r' h e
        rw [decide_eq_false this, Bool.xor_false]
      simp only [this]
      rw [Bool.eq_iff_iff]
      simp
      constructor
      · rintro (⟨r, hr, h⟩ | h)
        · exact ⟨r, by omega, h⟩
        · exact ⟨n, by omega, h⟩
      · rintro ⟨r, hr, h⟩
        rcases (show r < n ∨ r = n by omega) with h' | h'
        · exact .inl ⟨r, h', h⟩
        · subst h'; exact .inr h

end Sys2Proof.Machine
end

