-- ==== Sys2Proof/Laws/Memory.lean ====
section
/-! SUPPORT. The laws of memory (spec/20_memory.md R41, R43, R44): a read after a write, the bytes a run of
writes leaves alone, and the canonical form. -/

namespace Sys2Proof.Machine

theorem lookupByte_insertByte_self (m : Memory) (a : Nat) (v : Byte) :
    lookupByte (insertByte m a v) a = v := by
  induction m with
  | nil => simp [insertByte, lookupByte]
  | cons e m ih =>
    obtain ⟨b, w⟩ := e
    simp only [insertByte]
    split
    · simp [lookupByte]
    · split
      · simp [lookupByte]
      · rename_i _ h
        simp [lookupByte, Ne.symm h, ih]

theorem lookupByte_insertByte_ne (m : Memory) {a c : Nat} (v : Byte) (h : c ≠ a) :
    lookupByte (insertByte m a v) c = lookupByte m c := by
  induction m with
  | nil => simp [insertByte, lookupByte, Ne.symm h]
  | cons e m ih =>
    obtain ⟨b, w⟩ := e
    simp only [insertByte]
    split
    · simp [lookupByte, Ne.symm h]
    · split
      · rename_i _ hab
        subst hab
        simp [lookupByte, Ne.symm h]
      · simp [lookupByte, ih]

theorem lookupByte_eraseByte_self (m : Memory) (a : Nat) :
    lookupByte (eraseByte m a) a = initialByte a := by
  induction m with
  | nil => rfl
  | cons e m ih =>
    obtain ⟨b, w⟩ := e
    simp only [eraseByte]
    split
    · exact ih
    · rename_i h
      simp [lookupByte, h, ih]

theorem lookupByte_eraseByte_ne (m : Memory) {a c : Nat} (h : c ≠ a) :
    lookupByte (eraseByte m a) c = lookupByte m c := by
  induction m with
  | nil => rfl
  | cons e m ih =>
    obtain ⟨b, w⟩ := e
    simp only [eraseByte]
    split
    · rename_i hab
      subst hab
      simp [lookupByte, Ne.symm h, ih]
    · simp [lookupByte, ih]

/-- A read of the address just written gives the byte written. -/
theorem readByte_writeByte_self (m : Memory) (a : Addr) (v : Byte) : readByte (writeByte m a v) a = v := by
  unfold readByte writeByte
  split
  · rename_i h
    rw [lookupByte_eraseByte_self, h]
  · exact lookupByte_insertByte_self m a.toNat v

/-- A write leaves every other address alone. -/
theorem readByte_writeByte_ne (m : Memory) {a c : Addr} (v : Byte) (h : c ≠ a) :
    readByte (writeByte m a v) c = readByte m c := by
  have hn : c.toNat ≠ a.toNat := fun e => h (BitVec.eq_of_toNat_eq e)
  unfold readByte writeByte
  split
  · exact lookupByte_eraseByte_ne m hn
  · exact lookupByte_insertByte_ne m v hn

/-! ### The canonical form -/

theorem risesFrom_mono {lo lo' : Nat} {m : Memory} (hle : lo' ≤ lo) (h : risesFrom lo m = true) :
    risesFrom lo' m = true := by
  cases m with
  | nil => rfl
  | cons e m =>
    obtain ⟨b, w⟩ := e
    simp only [risesFrom, Bool.and_eq_true, decide_eq_true_eq] at h ⊢
    exact ⟨⟨⟨by omega, h.1.1.2⟩, h.1.2⟩, h.2⟩

theorem risesFrom_insertByte {lo a : Nat} {v : Byte} (m : Memory) (hlo : lo ≤ a) (ha : a < 4096)
    (hv : v ≠ initialByte a) (h : risesFrom lo m = true) : risesFrom lo (insertByte m a v) = true := by
  induction m generalizing lo with
  | nil => simp [insertByte, risesFrom, hlo, ha, hv]
  | cons e m ih =>
    obtain ⟨b, w⟩ := e
    simp only [risesFrom, Bool.and_eq_true, decide_eq_true_eq] at h
    obtain ⟨⟨⟨hb, hbm⟩, hw⟩, hm⟩ := h
    simp only [insertByte]
    split
    · simp only [risesFrom, Bool.and_eq_true, decide_eq_true_eq, bne_iff_ne, ne_eq]
      exact ⟨⟨⟨hlo, ha⟩, hv⟩, ⟨⟨by omega, hbm⟩, by simpa using hw⟩, hm⟩
    · split
      · rename_i _ hab
        subst hab
        simp only [risesFrom, Bool.and_eq_true, decide_eq_true_eq, bne_iff_ne, ne_eq]
        exact ⟨⟨⟨hlo, ha⟩, hv⟩, hm⟩
      · simp only [risesFrom, Bool.and_eq_true, decide_eq_true_eq]
        exact ⟨⟨⟨hb, hbm⟩, hw⟩, ih (by omega) hm⟩

theorem risesFrom_eraseByte {lo : Nat} (m : Memory) (a : Nat) (h : risesFrom lo m = true) :
    risesFrom lo (eraseByte m a) = true := by
  induction m generalizing lo with
  | nil => rfl
  | cons e m ih =>
    obtain ⟨b, w⟩ := e
    simp only [risesFrom, Bool.and_eq_true, decide_eq_true_eq] at h
    obtain ⟨⟨⟨hb, hbm⟩, hw⟩, hm⟩ := h
    simp only [eraseByte]
    split
    · exact ih (risesFrom_mono (by omega) hm)
    · simp only [risesFrom, Bool.and_eq_true, decide_eq_true_eq]
      exact ⟨⟨⟨hb, hbm⟩, hw⟩, ih hm⟩

/-- A write keeps the canonical form. -/
theorem wf_writeByte {m : Memory} (a : Addr) (v : Byte) (h : m.wf = true) : (writeByte m a v).wf = true := by
  unfold writeByte
  split
  · exact risesFrom_eraseByte m a.toNat h
  · rename_i hv
    exact risesFrom_insertByte m (Nat.zero_le _) a.isLt hv h

/-- A run of writes keeps the canonical form. -/
theorem wf_writeBytes {m : Memory} (addr : Nat → Addr) (f : Nat → Byte) (n : Nat) (h : m.wf = true) :
    (writeBytes addr f n m).wf = true := by
  induction n with
  | zero => exact h
  | succ n ih => exact wf_writeByte (addr n) (f n) ih

/-- Memory that lists nothing is canonical. -/
theorem wf_nil : Memory.wf [] = true := rfl

/-! ### Runs of writes and effective addresses -/

/-- A run of writes leaves every address it does not name alone. -/
theorem readByte_writeBytes_outside (m : Memory) (addr : Nat → Addr) (f : Nat → Byte) (n : Nat) (a : Addr)
    (h : ∀ k, k < n → a ≠ addr k) : readByte (writeBytes addr f n m) a = readByte m a := by
  induction n with
  | zero => rfl
  | succ n ih =>
    rw [writeBytes, readByte_writeByte_ne _ _ (h n (Nat.lt_succ_self n))]
    exact ih fun k hk => h k (Nat.lt_succ_of_lt hk)

/-- A run of writes to different addresses leaves each of its bytes where it put it. -/
theorem readByte_writeBytes_inside (m : Memory) (addr : Nat → Addr) (f : Nat → Byte) {n k : Nat} (hk : k < n)
    (hinj : ∀ i j, i < n → j < n → addr i = addr j → i = j) :
    readByte (writeBytes addr f n m) (addr k) = f k := by
  induction n with
  | zero => omega
  | succ n ih =>
    rw [writeBytes]
    by_cases hkn : k = n
    · subst hkn
      exact readByte_writeByte_self _ _ _
    · have hlt : k < n := by omega
      have hne : addr k ≠ addr n := fun e => hkn (hinj k n (by omega) (by omega) e)
      rw [readByte_writeByte_ne _ _ hne]
      exact ih hlt fun i j hi hj => hinj i j (by omega) (by omega)

/-- `EA(k)` as a number (20_memory.md R41). -/
theorem effAddr_toNat (I : Word) (k : Nat) : (effAddr I k).toNat = (I.toNat + k) % 4096 := by
  simp [effAddr]

/-- `EA` is injective on any 4096 consecutive offsets (20_memory.md R35). -/
theorem effAddr_injective (I : Word) {j k : Nat} (hj : j < 4096) (hk : k < 4096)
    (h : effAddr I j = effAddr I k) : j = k := by
  have := congrArg BitVec.toNat h
  rw [effAddr_toNat, effAddr_toNat] at this
  omega

end Sys2Proof.Machine
end

