-- ==== Sys2Proof/Laws/PerInstr.lean ====
section
/-! SUPPORT. Per-instruction laws. Family `EncodeSpells`: the word `encode` gives an instruction is admitted by
the instruction's row of the opcode map and holds its operands at the bits of the fields (spec/30_encoding.md
R51, R53). -/

namespace Sys2Proof.Laws.EncodeSpells

/-- The encoded word spells the instruction. -/
def Statement (i : Instr) : Prop := i.spelledBy (encode i) = true

/-- A form of format NNN, whose mask keeps the class. -/
theorem of_nnn {i : Instr} {c : Nibble} {nnn : Addr} (he : encode i = encodeNNN c nnn)
    (hm : i.row.mask = 0xF000) (hb : i.row.bits = encodeNNN c 0)
    (hf : i.fieldsIn (encode i) = (fieldNNN (encode i) == nnn)) : Statement i := by
  unfold Statement Instr.spelledBy Row.admits
  rw [hf, hm, hb, he, mask_encodeNNN, fieldNNN_encodeNNN]
  simp

/-- A form of format XKK, whose mask keeps the class. -/
theorem of_xkk {i : Instr} {c x : Nibble} {kk : Byte} (he : encode i = encodeXKK c x kk)
    (hm : i.row.mask = 0xF000) (hb : i.row.bits = encodeNNN c 0)
    (hf : i.fieldsIn (encode i) = (fieldX (encode i) == x && fieldKK (encode i) == kk)) : Statement i := by
  unfold Statement Instr.spelledBy Row.admits
  rw [hf, hm, hb, he, mask_encodeXKK, fieldX_encodeXKK, fieldKK_encodeXKK]
  simp

/-- A form of format XY, whose mask keeps the class and the function nibble. -/
theorem of_xy {i : Instr} {c x y n : Nibble} (he : encode i = encodeXYN c x y n)
    (hm : i.row.mask = 0xF00F) (hb : i.row.bits = encodeXYN c 0 0 n)
    (hf : i.fieldsIn (encode i) = (fieldX (encode i) == x && fieldY (encode i) == y)) : Statement i := by
  unfold Statement Instr.spelledBy Row.admits
  rw [hf, hm, hb, he, mask_function_nibble, fieldX_encodeXYN, fieldY_encodeXYN]
  simp

/-- A form of format X, whose mask keeps the class and the function byte. -/
theorem of_x {i : Instr} {c x : Nibble} {kk : Byte} (he : encode i = encodeXKK c x kk)
    (hm : i.row.mask = 0xF0FF) (hb : i.row.bits = encodeXKK c 0 kk)
    (hf : i.fieldsIn (encode i) = (fieldX (encode i) == x)) : Statement i := by
  unfold Statement Instr.spelledBy Row.admits
  rw [hf, hm, hb, he, mask_function_byte, fieldX_encodeXKK]
  simp

theorem cls : Statement Instr.cls := by unfold Statement; decide

theorem ret : Statement Instr.ret := by unfold Statement; decide

theorem jp (nnn : Addr) : Statement (Instr.jp nnn) :=
  of_nnn rfl rfl rfl rfl

theorem call (nnn : Addr) : Statement (Instr.call nnn) :=
  of_nnn rfl rfl rfl rfl

theorem seByte (x : Nibble) (kk : Byte) : Statement (Instr.seByte x kk) :=
  of_xkk rfl rfl rfl rfl

theorem sneByte (x : Nibble) (kk : Byte) : Statement (Instr.sneByte x kk) :=
  of_xkk rfl rfl rfl rfl

theorem seReg (x : Nibble) (y : Nibble) : Statement (Instr.seReg x y) :=
  of_xy rfl rfl rfl rfl

theorem ldByte (x : Nibble) (kk : Byte) : Statement (Instr.ldByte x kk) :=
  of_xkk rfl rfl rfl rfl

theorem addByte (x : Nibble) (kk : Byte) : Statement (Instr.addByte x kk) :=
  of_xkk rfl rfl rfl rfl

theorem ldReg (x : Nibble) (y : Nibble) : Statement (Instr.ldReg x y) :=
  of_xy rfl rfl rfl rfl

theorem orReg (x : Nibble) (y : Nibble) : Statement (Instr.orReg x y) :=
  of_xy rfl rfl rfl rfl

theorem andReg (x : Nibble) (y : Nibble) : Statement (Instr.andReg x y) :=
  of_xy rfl rfl rfl rfl

theorem xorReg (x : Nibble) (y : Nibble) : Statement (Instr.xorReg x y) :=
  of_xy rfl rfl rfl rfl

theorem addReg (x : Nibble) (y : Nibble) : Statement (Instr.addReg x y) :=
  of_xy rfl rfl rfl rfl

theorem subReg (x : Nibble) (y : Nibble) : Statement (Instr.subReg x y) :=
  of_xy rfl rfl rfl rfl

theorem shr (x : Nibble) (y : Nibble) : Statement (Instr.shr x y) :=
  of_xy rfl rfl rfl rfl

theorem subnReg (x : Nibble) (y : Nibble) : Statement (Instr.subnReg x y) :=
  of_xy rfl rfl rfl rfl

theorem shl (x : Nibble) (y : Nibble) : Statement (Instr.shl x y) :=
  of_xy rfl rfl rfl rfl

theorem sneReg (x : Nibble) (y : Nibble) : Statement (Instr.sneReg x y) :=
  of_xy rfl rfl rfl rfl

theorem ldI (nnn : Addr) : Statement (Instr.ldI nnn) :=
  of_nnn rfl rfl rfl rfl

theorem jpV0 (nnn : Addr) : Statement (Instr.jpV0 nnn) :=
  of_nnn rfl rfl rfl rfl

theorem rnd (x : Nibble) (kk : Byte) : Statement (Instr.rnd x kk) :=
  of_xkk rfl rfl rfl rfl

theorem drw (x : Nibble) (y : Nibble) (n : Nibble) : Statement (Instr.drw x y n) := by
  unfold Statement Instr.spelledBy Row.admits
  show (encodeXYN 0xD x y n &&& 0xF000 == 0xD000 && (fieldX (encodeXYN 0xD x y n) == x &&
    fieldY (encodeXYN 0xD x y n) == y && fieldN (encodeXYN 0xD x y n) == n)) = true
  rw [mask_encodeXYN, fieldX_encodeXYN, fieldY_encodeXYN, fieldN_encodeXYN,
    show encodeNNN 0xD 0 = 0xD000 by decide]
  simp

theorem skp (x : Nibble) : Statement (Instr.skp x) :=
  of_x rfl rfl rfl rfl

theorem sknp (x : Nibble) : Statement (Instr.sknp x) :=
  of_x rfl rfl rfl rfl

theorem ldVxDT (x : Nibble) : Statement (Instr.ldVxDT x) :=
  of_x rfl rfl rfl rfl

theorem ldVxK (x : Nibble) : Statement (Instr.ldVxK x) :=
  of_x rfl rfl rfl rfl

theorem ldDTVx (x : Nibble) : Statement (Instr.ldDTVx x) :=
  of_x rfl rfl rfl rfl

theorem ldSTVx (x : Nibble) : Statement (Instr.ldSTVx x) :=
  of_x rfl rfl rfl rfl

theorem addI (x : Nibble) : Statement (Instr.addI x) :=
  of_x rfl rfl rfl rfl

theorem ldF (x : Nibble) : Statement (Instr.ldF x) :=
  of_x rfl rfl rfl rfl

theorem ldB (x : Nibble) : Statement (Instr.ldB x) :=
  of_x rfl rfl rfl rfl

theorem storeRegs (x : Nibble) : Statement (Instr.storeRegs x) :=
  of_x rfl rfl rfl rfl

theorem loadRegs (x : Nibble) : Statement (Instr.loadRegs x) :=
  of_x rfl rfl rfl rfl

end Sys2Proof.Laws.EncodeSpells
end

