-- ==== Sys2Proof/Laws/Registers.lean ====
section
/-! SUPPORT. The laws of the register file (spec/10_state.md R13), of the loads of several registers
(spec/42_index_memory.md R93), of the flag bytes (spec/10_state.md R14) and of the latch
(spec/44_input_timer_random.md R103). -/

namespace Sys2Proof.Machine

@[simp] theorem readReg_writeReg_self (V : RegFile) (r : Nibble) (v : Byte) :
    readReg (writeReg V r v) r = v := by
  simp [readReg, writeReg]

theorem readReg_writeReg_ne (V : RegFile) {r q : Nibble} (v : Byte) (h : q ≠ r) :
    readReg (writeReg V r v) q = readReg V q := by
  have hn : r.toNat ≠ q.toNat := fun e => h (BitVec.eq_of_toNat_eq e.symm)
  simp only [readReg, writeReg]
  exact Vector.getElem_set_ne r.isLt q.isLt hn

/-- Registers are equal when they read equal. -/
theorem regFile_ext {V W : RegFile} (h : ∀ r, readReg V r = readReg W r) : V = W := by
  apply Vector.ext
  intro i hi
  have := h (BitVec.ofNat 4 i)
  simpa [readReg, Nat.mod_eq_of_lt hi] using this

/-- A register number counted by an instruction names that register. -/
theorem counted_toNat {k : Nat} (h : k < 16) : (BitVec.ofNat 4 k).toNat = k := by
  simp [Nat.mod_eq_of_lt h]

/-- A load of `n` registers gives register `k` the byte at `EA(k)` when `k < n` and leaves it alone otherwise. -/
theorem readReg_loadRegsFrom (m : Memory) (I : Word) (V : RegFile) {n : Nat} (hn : n ≤ 16) (r : Nibble) :
    readReg (loadRegsFrom m I n V) r =
      if r.toNat < n then readByte m (effAddr I r.toNat) else readReg V r := by
  induction n with
  | zero => rfl
  | succ n ih =>
    rw [loadRegsFrom]
    by_cases hr : r = BitVec.ofNat 4 n
    · have hrn : r.toNat = n := by rw [hr]; exact counted_toNat (by omega)
      rw [← hr, readReg_writeReg_self, if_pos (by omega), hrn]
    · have hrn : r.toNat ≠ n := fun e => hr (by rw [← e]; simp)
      rw [readReg_writeReg_ne _ _ hr, ih (by omega)]
      by_cases hlt : r.toNat < n
      · rw [if_pos hlt, if_pos (by omega)]
      · rw [if_neg hlt, if_neg (by omega)]

/-- A flag is 0 or 1 as a register value. -/
theorem flagByte_cases (f : Bool) : flagByte f = 0 ∨ flagByte f = 1 := by
  cases f
  · exact .inl rfl
  · exact .inr rfl

theorem flagByte_eq_one_iff (f : Bool) : flagByte f = 1 ↔ f = true := by
  cases f <;> decide

/-- Register `r` after a result and its flag are put: the flag in `VF`, else the result in `V[x]`, else as before. -/
theorem readReg_putWithFlag (s : State) (x : Nibble) (result : Byte) (flag : Bool) (r : Nibble) :
    readReg (s.putWithFlag x result flag).V r =
      if r = regVF then flagByte flag else if r = x then result else readReg s.V r := by
  show readReg (writeReg (writeReg s.V x result) regVF (flagByte flag)) r = _
  by_cases hF : r = regVF
  · subst hF
    simp
  · rw [readReg_writeReg_ne _ _ hF, if_neg hF]
    by_cases hx : r = x
    · subst hx
      simp
    · rw [readReg_writeReg_ne _ _ hx, if_neg hx]

/-! ### The latch -/

/-- The least pressed line is found. -/
theorem firstPressed_eq_some {K : BitVec 16} {k : Nat} (hk : k < 16) (h : K.getLsbD k = true)
    (hl : ∀ j, j < k → K.getLsbD j = false) : firstPressed K = some k := by
  unfold firstPressed
  rw [List.find?_range_eq_some]
  simp only [keyPressed, h, List.mem_range, hk, true_and]
  intro j hj
  simp [hl j hj]

/-- With no line pressed none is found. -/
theorem firstPressed_eq_none {K : BitVec 16} (h : ∀ k, k < 16 → K.getLsbD k = false) :
    firstPressed K = none := by
  simp only [firstPressed, List.find?_eq_none, List.mem_range, keyPressed]
  intro k hk
  simp [h k hk]

end Sys2Proof.Machine
end

