-- ==== Sys2Proof/Laws/State.lean ====
section
/-! SUPPORT. What each update of State does to each field: one lemma per field per update, so that no proof
unfolds a record update. -/

namespace Sys2Proof.Machine

/-! ### `State.setReg` -/

@[simp] theorem State.setReg_V (s : State) (r : Nibble) (v : Byte) :
    (s.setReg r v).V = writeReg s.V r v := rfl
@[simp] theorem State.setReg_I (s : State) (r : Nibble) (v : Byte) :
    (s.setReg r v).I = s.I := rfl
@[simp] theorem State.setReg_pc (s : State) (r : Nibble) (v : Byte) :
    (s.setReg r v).pc = s.pc := rfl
@[simp] theorem State.setReg_sp (s : State) (r : Nibble) (v : Byte) :
    (s.setReg r v).sp = s.sp := rfl
@[simp] theorem State.setReg_stack (s : State) (r : Nibble) (v : Byte) :
    (s.setReg r v).stack = s.stack := rfl
@[simp] theorem State.setReg_DT (s : State) (r : Nibble) (v : Byte) :
    (s.setReg r v).DT = s.DT := rfl
@[simp] theorem State.setReg_ST (s : State) (r : Nibble) (v : Byte) :
    (s.setReg r v).ST = s.ST := rfl
@[simp] theorem State.setReg_mem (s : State) (r : Nibble) (v : Byte) :
    (s.setReg r v).mem = s.mem := rfl
@[simp] theorem State.setReg_FB (s : State) (r : Nibble) (v : Byte) :
    (s.setReg r v).FB = s.FB := rfl
@[simp] theorem State.setReg_K (s : State) (r : Nibble) (v : Byte) :
    (s.setReg r v).K = s.K := rfl
@[simp] theorem State.setReg_halted (s : State) (r : Nibble) (v : Byte) :
    (s.setReg r v).halted = s.halted := rfl
@[simp] theorem State.setReg_fault (s : State) (r : Nibble) (v : Byte) :
    (s.setReg r v).fault = s.fault := rfl
@[simp] theorem State.setReg_redraw (s : State) (r : Nibble) (v : Byte) :
    (s.setReg r v).redraw = s.redraw := rfl
@[simp] theorem State.setReg_blocked (s : State) (r : Nibble) (v : Byte) :
    (s.setReg r v).blocked = s.blocked := rfl
@[simp] theorem State.setReg_redrawOut (s : State) (r : Nibble) (v : Byte) :
    (s.setReg r v).redrawOut = s.redrawOut := rfl
@[simp] theorem State.setReg_left (s : State) (r : Nibble) (v : Byte) :
    (s.setReg r v).left = s.left := rfl
@[simp] theorem State.setReg_ticks (s : State) (r : Nibble) (v : Byte) :
    (s.setReg r v).ticks = s.ticks := rfl
@[simp] theorem State.setReg_draws (s : State) (r : Nibble) (v : Byte) :
    (s.setReg r v).draws = s.draws := rfl

/-! ### `State.setRegs` -/

@[simp] theorem State.setRegs_V (s : State) (V : RegFile) :
    (s.setRegs V).V = V := rfl
@[simp] theorem State.setRegs_I (s : State) (V : RegFile) :
    (s.setRegs V).I = s.I := rfl
@[simp] theorem State.setRegs_pc (s : State) (V : RegFile) :
    (s.setRegs V).pc = s.pc := rfl
@[simp] theorem State.setRegs_sp (s : State) (V : RegFile) :
    (s.setRegs V).sp = s.sp := rfl
@[simp] theorem State.setRegs_stack (s : State) (V : RegFile) :
    (s.setRegs V).stack = s.stack := rfl
@[simp] theorem State.setRegs_DT (s : State) (V : RegFile) :
    (s.setRegs V).DT = s.DT := rfl
@[simp] theorem State.setRegs_ST (s : State) (V : RegFile) :
    (s.setRegs V).ST = s.ST := rfl
@[simp] theorem State.setRegs_mem (s : State) (V : RegFile) :
    (s.setRegs V).mem = s.mem := rfl
@[simp] theorem State.setRegs_FB (s : State) (V : RegFile) :
    (s.setRegs V).FB = s.FB := rfl
@[simp] theorem State.setRegs_K (s : State) (V : RegFile) :
    (s.setRegs V).K = s.K := rfl
@[simp] theorem State.setRegs_halted (s : State) (V : RegFile) :
    (s.setRegs V).halted = s.halted := rfl
@[simp] theorem State.setRegs_fault (s : State) (V : RegFile) :
    (s.setRegs V).fault = s.fault := rfl
@[simp] theorem State.setRegs_redraw (s : State) (V : RegFile) :
    (s.setRegs V).redraw = s.redraw := rfl
@[simp] theorem State.setRegs_blocked (s : State) (V : RegFile) :
    (s.setRegs V).blocked = s.blocked := rfl
@[simp] theorem State.setRegs_redrawOut (s : State) (V : RegFile) :
    (s.setRegs V).redrawOut = s.redrawOut := rfl
@[simp] theorem State.setRegs_left (s : State) (V : RegFile) :
    (s.setRegs V).left = s.left := rfl
@[simp] theorem State.setRegs_ticks (s : State) (V : RegFile) :
    (s.setRegs V).ticks = s.ticks := rfl
@[simp] theorem State.setRegs_draws (s : State) (V : RegFile) :
    (s.setRegs V).draws = s.draws := rfl

/-! ### `State.jump` -/

@[simp] theorem State.jump_V (s : State) (target : Word) :
    (s.jump target).V = s.V := rfl
@[simp] theorem State.jump_I (s : State) (target : Word) :
    (s.jump target).I = s.I := rfl
@[simp] theorem State.jump_pc (s : State) (target : Word) :
    (s.jump target).pc = target := rfl
@[simp] theorem State.jump_sp (s : State) (target : Word) :
    (s.jump target).sp = s.sp := rfl
@[simp] theorem State.jump_stack (s : State) (target : Word) :
    (s.jump target).stack = s.stack := rfl
@[simp] theorem State.jump_DT (s : State) (target : Word) :
    (s.jump target).DT = s.DT := rfl
@[simp] theorem State.jump_ST (s : State) (target : Word) :
    (s.jump target).ST = s.ST := rfl
@[simp] theorem State.jump_mem (s : State) (target : Word) :
    (s.jump target).mem = s.mem := rfl
@[simp] theorem State.jump_FB (s : State) (target : Word) :
    (s.jump target).FB = s.FB := rfl
@[simp] theorem State.jump_K (s : State) (target : Word) :
    (s.jump target).K = s.K := rfl
@[simp] theorem State.jump_halted (s : State) (target : Word) :
    (s.jump target).halted = s.halted := rfl
@[simp] theorem State.jump_fault (s : State) (target : Word) :
    (s.jump target).fault = s.fault := rfl
@[simp] theorem State.jump_redraw (s : State) (target : Word) :
    (s.jump target).redraw = s.redraw := rfl
@[simp] theorem State.jump_blocked (s : State) (target : Word) :
    (s.jump target).blocked = s.blocked := rfl
@[simp] theorem State.jump_redrawOut (s : State) (target : Word) :
    (s.jump target).redrawOut = s.redrawOut := rfl
@[simp] theorem State.jump_left (s : State) (target : Word) :
    (s.jump target).left = s.left := rfl
@[simp] theorem State.jump_ticks (s : State) (target : Word) :
    (s.jump target).ticks = s.ticks := rfl
@[simp] theorem State.jump_draws (s : State) (target : Word) :
    (s.jump target).draws = s.draws := rfl

/-! ### `State.advance` -/

@[simp] theorem State.advance_V (s : State) :
    (s.advance).V = s.V := rfl
@[simp] theorem State.advance_I (s : State) :
    (s.advance).I = s.I := rfl
@[simp] theorem State.advance_pc (s : State) :
    (s.advance).pc = s.pc + 2 := rfl
@[simp] theorem State.advance_sp (s : State) :
    (s.advance).sp = s.sp := rfl
@[simp] theorem State.advance_stack (s : State) :
    (s.advance).stack = s.stack := rfl
@[simp] theorem State.advance_DT (s : State) :
    (s.advance).DT = s.DT := rfl
@[simp] theorem State.advance_ST (s : State) :
    (s.advance).ST = s.ST := rfl
@[simp] theorem State.advance_mem (s : State) :
    (s.advance).mem = s.mem := rfl
@[simp] theorem State.advance_FB (s : State) :
    (s.advance).FB = s.FB := rfl
@[simp] theorem State.advance_K (s : State) :
    (s.advance).K = s.K := rfl
@[simp] theorem State.advance_halted (s : State) :
    (s.advance).halted = s.halted := rfl
@[simp] theorem State.advance_fault (s : State) :
    (s.advance).fault = s.fault := rfl
@[simp] theorem State.advance_redraw (s : State) :
    (s.advance).redraw = s.redraw := rfl
@[simp] theorem State.advance_blocked (s : State) :
    (s.advance).blocked = s.blocked := rfl
@[simp] theorem State.advance_redrawOut (s : State) :
    (s.advance).redrawOut = s.redrawOut := rfl
@[simp] theorem State.advance_left (s : State) :
    (s.advance).left = s.left := rfl
@[simp] theorem State.advance_ticks (s : State) :
    (s.advance).ticks = s.ticks := rfl
@[simp] theorem State.advance_draws (s : State) :
    (s.advance).draws = s.draws := rfl

/-! ### `State.skipIf` -/

@[simp] theorem State.skipIf_V (s : State) (c : Bool) :
    (s.skipIf c).V = s.V := rfl
@[simp] theorem State.skipIf_I (s : State) (c : Bool) :
    (s.skipIf c).I = s.I := rfl
@[simp] theorem State.skipIf_pc (s : State) (c : Bool) :
    (s.skipIf c).pc = if c then s.pc + 4 else s.pc + 2 := rfl
@[simp] theorem State.skipIf_sp (s : State) (c : Bool) :
    (s.skipIf c).sp = s.sp := rfl
@[simp] theorem State.skipIf_stack (s : State) (c : Bool) :
    (s.skipIf c).stack = s.stack := rfl
@[simp] theorem State.skipIf_DT (s : State) (c : Bool) :
    (s.skipIf c).DT = s.DT := rfl
@[simp] theorem State.skipIf_ST (s : State) (c : Bool) :
    (s.skipIf c).ST = s.ST := rfl
@[simp] theorem State.skipIf_mem (s : State) (c : Bool) :
    (s.skipIf c).mem = s.mem := rfl
@[simp] theorem State.skipIf_FB (s : State) (c : Bool) :
    (s.skipIf c).FB = s.FB := rfl
@[simp] theorem State.skipIf_K (s : State) (c : Bool) :
    (s.skipIf c).K = s.K := rfl
@[simp] theorem State.skipIf_halted (s : State) (c : Bool) :
    (s.skipIf c).halted = s.halted := rfl
@[simp] theorem State.skipIf_fault (s : State) (c : Bool) :
    (s.skipIf c).fault = s.fault := rfl
@[simp] theorem State.skipIf_redraw (s : State) (c : Bool) :
    (s.skipIf c).redraw = s.redraw := rfl
@[simp] theorem State.skipIf_blocked (s : State) (c : Bool) :
    (s.skipIf c).blocked = s.blocked := rfl
@[simp] theorem State.skipIf_redrawOut (s : State) (c : Bool) :
    (s.skipIf c).redrawOut = s.redrawOut := rfl
@[simp] theorem State.skipIf_left (s : State) (c : Bool) :
    (s.skipIf c).left = s.left := rfl
@[simp] theorem State.skipIf_ticks (s : State) (c : Bool) :
    (s.skipIf c).ticks = s.ticks := rfl
@[simp] theorem State.skipIf_draws (s : State) (c : Bool) :
    (s.skipIf c).draws = s.draws := rfl

/-! ### `State.setI` -/

@[simp] theorem State.setI_V (s : State) (v : Word) :
    (s.setI v).V = s.V := rfl
@[simp] theorem State.setI_I (s : State) (v : Word) :
    (s.setI v).I = v := rfl
@[simp] theorem State.setI_pc (s : State) (v : Word) :
    (s.setI v).pc = s.pc := rfl
@[simp] theorem State.setI_sp (s : State) (v : Word) :
    (s.setI v).sp = s.sp := rfl
@[simp] theorem State.setI_stack (s : State) (v : Word) :
    (s.setI v).stack = s.stack := rfl
@[simp] theorem State.setI_DT (s : State) (v : Word) :
    (s.setI v).DT = s.DT := rfl
@[simp] theorem State.setI_ST (s : State) (v : Word) :
    (s.setI v).ST = s.ST := rfl
@[simp] theorem State.setI_mem (s : State) (v : Word) :
    (s.setI v).mem = s.mem := rfl
@[simp] theorem State.setI_FB (s : State) (v : Word) :
    (s.setI v).FB = s.FB := rfl
@[simp] theorem State.setI_K (s : State) (v : Word) :
    (s.setI v).K = s.K := rfl
@[simp] theorem State.setI_halted (s : State) (v : Word) :
    (s.setI v).halted = s.halted := rfl
@[simp] theorem State.setI_fault (s : State) (v : Word) :
    (s.setI v).fault = s.fault := rfl
@[simp] theorem State.setI_redraw (s : State) (v : Word) :
    (s.setI v).redraw = s.redraw := rfl
@[simp] theorem State.setI_blocked (s : State) (v : Word) :
    (s.setI v).blocked = s.blocked := rfl
@[simp] theorem State.setI_redrawOut (s : State) (v : Word) :
    (s.setI v).redrawOut = s.redrawOut := rfl
@[simp] theorem State.setI_left (s : State) (v : Word) :
    (s.setI v).left = s.left := rfl
@[simp] theorem State.setI_ticks (s : State) (v : Word) :
    (s.setI v).ticks = s.ticks := rfl
@[simp] theorem State.setI_draws (s : State) (v : Word) :
    (s.setI v).draws = s.draws := rfl

/-! ### `State.setDT` -/

@[simp] theorem State.setDT_V (s : State) (v : Byte) :
    (s.setDT v).V = s.V := rfl
@[simp] theorem State.setDT_I (s : State) (v : Byte) :
    (s.setDT v).I = s.I := rfl
@[simp] theorem State.setDT_pc (s : State) (v : Byte) :
    (s.setDT v).pc = s.pc := rfl
@[simp] theorem State.setDT_sp (s : State) (v : Byte) :
    (s.setDT v).sp = s.sp := rfl
@[simp] theorem State.setDT_stack (s : State) (v : Byte) :
    (s.setDT v).stack = s.stack := rfl
@[simp] theorem State.setDT_DT (s : State) (v : Byte) :
    (s.setDT v).DT = v := rfl
@[simp] theorem State.setDT_ST (s : State) (v : Byte) :
    (s.setDT v).ST = s.ST := rfl
@[simp] theorem State.setDT_mem (s : State) (v : Byte) :
    (s.setDT v).mem = s.mem := rfl
@[simp] theorem State.setDT_FB (s : State) (v : Byte) :
    (s.setDT v).FB = s.FB := rfl
@[simp] theorem State.setDT_K (s : State) (v : Byte) :
    (s.setDT v).K = s.K := rfl
@[simp] theorem State.setDT_halted (s : State) (v : Byte) :
    (s.setDT v).halted = s.halted := rfl
@[simp] theorem State.setDT_fault (s : State) (v : Byte) :
    (s.setDT v).fault = s.fault := rfl
@[simp] theorem State.setDT_redraw (s : State) (v : Byte) :
    (s.setDT v).redraw = s.redraw := rfl
@[simp] theorem State.setDT_blocked (s : State) (v : Byte) :
    (s.setDT v).blocked = s.blocked := rfl
@[simp] theorem State.setDT_redrawOut (s : State) (v : Byte) :
    (s.setDT v).redrawOut = s.redrawOut := rfl
@[simp] theorem State.setDT_left (s : State) (v : Byte) :
    (s.setDT v).left = s.left := rfl
@[simp] theorem State.setDT_ticks (s : State) (v : Byte) :
    (s.setDT v).ticks = s.ticks := rfl
@[simp] theorem State.setDT_draws (s : State) (v : Byte) :
    (s.setDT v).draws = s.draws := rfl

/-! ### `State.setST` -/

@[simp] theorem State.setST_V (s : State) (v : Byte) :
    (s.setST v).V = s.V := rfl
@[simp] theorem State.setST_I (s : State) (v : Byte) :
    (s.setST v).I = s.I := rfl
@[simp] theorem State.setST_pc (s : State) (v : Byte) :
    (s.setST v).pc = s.pc := rfl
@[simp] theorem State.setST_sp (s : State) (v : Byte) :
    (s.setST v).sp = s.sp := rfl
@[simp] theorem State.setST_stack (s : State) (v : Byte) :
    (s.setST v).stack = s.stack := rfl
@[simp] theorem State.setST_DT (s : State) (v : Byte) :
    (s.setST v).DT = s.DT := rfl
@[simp] theorem State.setST_ST (s : State) (v : Byte) :
    (s.setST v).ST = v := rfl
@[simp] theorem State.setST_mem (s : State) (v : Byte) :
    (s.setST v).mem = s.mem := rfl
@[simp] theorem State.setST_FB (s : State) (v : Byte) :
    (s.setST v).FB = s.FB := rfl
@[simp] theorem State.setST_K (s : State) (v : Byte) :
    (s.setST v).K = s.K := rfl
@[simp] theorem State.setST_halted (s : State) (v : Byte) :
    (s.setST v).halted = s.halted := rfl
@[simp] theorem State.setST_fault (s : State) (v : Byte) :
    (s.setST v).fault = s.fault := rfl
@[simp] theorem State.setST_redraw (s : State) (v : Byte) :
    (s.setST v).redraw = s.redraw := rfl
@[simp] theorem State.setST_blocked (s : State) (v : Byte) :
    (s.setST v).blocked = s.blocked := rfl
@[simp] theorem State.setST_redrawOut (s : State) (v : Byte) :
    (s.setST v).redrawOut = s.redrawOut := rfl
@[simp] theorem State.setST_left (s : State) (v : Byte) :
    (s.setST v).left = s.left := rfl
@[simp] theorem State.setST_ticks (s : State) (v : Byte) :
    (s.setST v).ticks = s.ticks := rfl
@[simp] theorem State.setST_draws (s : State) (v : Byte) :
    (s.setST v).draws = s.draws := rfl

/-! ### `State.setMem` -/

@[simp] theorem State.setMem_V (s : State) (m : Memory) :
    (s.setMem m).V = s.V := rfl
@[simp] theorem State.setMem_I (s : State) (m : Memory) :
    (s.setMem m).I = s.I := rfl
@[simp] theorem State.setMem_pc (s : State) (m : Memory) :
    (s.setMem m).pc = s.pc := rfl
@[simp] theorem State.setMem_sp (s : State) (m : Memory) :
    (s.setMem m).sp = s.sp := rfl
@[simp] theorem State.setMem_stack (s : State) (m : Memory) :
    (s.setMem m).stack = s.stack := rfl
@[simp] theorem State.setMem_DT (s : State) (m : Memory) :
    (s.setMem m).DT = s.DT := rfl
@[simp] theorem State.setMem_ST (s : State) (m : Memory) :
    (s.setMem m).ST = s.ST := rfl
@[simp] theorem State.setMem_mem (s : State) (m : Memory) :
    (s.setMem m).mem = m := rfl
@[simp] theorem State.setMem_FB (s : State) (m : Memory) :
    (s.setMem m).FB = s.FB := rfl
@[simp] theorem State.setMem_K (s : State) (m : Memory) :
    (s.setMem m).K = s.K := rfl
@[simp] theorem State.setMem_halted (s : State) (m : Memory) :
    (s.setMem m).halted = s.halted := rfl
@[simp] theorem State.setMem_fault (s : State) (m : Memory) :
    (s.setMem m).fault = s.fault := rfl
@[simp] theorem State.setMem_redraw (s : State) (m : Memory) :
    (s.setMem m).redraw = s.redraw := rfl
@[simp] theorem State.setMem_blocked (s : State) (m : Memory) :
    (s.setMem m).blocked = s.blocked := rfl
@[simp] theorem State.setMem_redrawOut (s : State) (m : Memory) :
    (s.setMem m).redrawOut = s.redrawOut := rfl
@[simp] theorem State.setMem_left (s : State) (m : Memory) :
    (s.setMem m).left = s.left := rfl
@[simp] theorem State.setMem_ticks (s : State) (m : Memory) :
    (s.setMem m).ticks = s.ticks := rfl
@[simp] theorem State.setMem_draws (s : State) (m : Memory) :
    (s.setMem m).draws = s.draws := rfl

/-! ### `State.push` -/

@[simp] theorem State.push_V (s : State) (entry : Word) :
    (s.push entry).V = s.V := rfl
@[simp] theorem State.push_I (s : State) (entry : Word) :
    (s.push entry).I = s.I := rfl
@[simp] theorem State.push_pc (s : State) (entry : Word) :
    (s.push entry).pc = s.pc := rfl
@[simp] theorem State.push_sp (s : State) (entry : Word) :
    (s.push entry).sp = s.sp + 1 := rfl
@[simp] theorem State.push_stack (s : State) (entry : Word) :
    (s.push entry).stack = s.stack.setIfInBounds s.sp.toNat entry := rfl
@[simp] theorem State.push_DT (s : State) (entry : Word) :
    (s.push entry).DT = s.DT := rfl
@[simp] theorem State.push_ST (s : State) (entry : Word) :
    (s.push entry).ST = s.ST := rfl
@[simp] theorem State.push_mem (s : State) (entry : Word) :
    (s.push entry).mem = s.mem := rfl
@[simp] theorem State.push_FB (s : State) (entry : Word) :
    (s.push entry).FB = s.FB := rfl
@[simp] theorem State.push_K (s : State) (entry : Word) :
    (s.push entry).K = s.K := rfl
@[simp] theorem State.push_halted (s : State) (entry : Word) :
    (s.push entry).halted = s.halted := rfl
@[simp] theorem State.push_fault (s : State) (entry : Word) :
    (s.push entry).fault = s.fault := rfl
@[simp] theorem State.push_redraw (s : State) (entry : Word) :
    (s.push entry).redraw = s.redraw := rfl
@[simp] theorem State.push_blocked (s : State) (entry : Word) :
    (s.push entry).blocked = s.blocked := rfl
@[simp] theorem State.push_redrawOut (s : State) (entry : Word) :
    (s.push entry).redrawOut = s.redrawOut := rfl
@[simp] theorem State.push_left (s : State) (entry : Word) :
    (s.push entry).left = s.left := rfl
@[simp] theorem State.push_ticks (s : State) (entry : Word) :
    (s.push entry).ticks = s.ticks := rfl
@[simp] theorem State.push_draws (s : State) (entry : Word) :
    (s.push entry).draws = s.draws := rfl

/-! ### `State.pop` -/

@[simp] theorem State.pop_V (s : State) :
    (s.pop).V = s.V := rfl
@[simp] theorem State.pop_I (s : State) :
    (s.pop).I = s.I := rfl
@[simp] theorem State.pop_pc (s : State) :
    (s.pop).pc = s.pc := rfl
@[simp] theorem State.pop_sp (s : State) :
    (s.pop).sp = s.sp - 1 := rfl
@[simp] theorem State.pop_stack (s : State) :
    (s.pop).stack = s.stack := rfl
@[simp] theorem State.pop_DT (s : State) :
    (s.pop).DT = s.DT := rfl
@[simp] theorem State.pop_ST (s : State) :
    (s.pop).ST = s.ST := rfl
@[simp] theorem State.pop_mem (s : State) :
    (s.pop).mem = s.mem := rfl
@[simp] theorem State.pop_FB (s : State) :
    (s.pop).FB = s.FB := rfl
@[simp] theorem State.pop_K (s : State) :
    (s.pop).K = s.K := rfl
@[simp] theorem State.pop_halted (s : State) :
    (s.pop).halted = s.halted := rfl
@[simp] theorem State.pop_fault (s : State) :
    (s.pop).fault = s.fault := rfl
@[simp] theorem State.pop_redraw (s : State) :
    (s.pop).redraw = s.redraw := rfl
@[simp] theorem State.pop_blocked (s : State) :
    (s.pop).blocked = s.blocked := rfl
@[simp] theorem State.pop_redrawOut (s : State) :
    (s.pop).redrawOut = s.redrawOut := rfl
@[simp] theorem State.pop_left (s : State) :
    (s.pop).left = s.left := rfl
@[simp] theorem State.pop_ticks (s : State) :
    (s.pop).ticks = s.ticks := rfl
@[simp] theorem State.pop_draws (s : State) :
    (s.pop).draws = s.draws := rfl

/-! ### `State.setFB` -/

@[simp] theorem State.setFB_V (s : State) (fb : Framebuffer) :
    (s.setFB fb).V = s.V := rfl
@[simp] theorem State.setFB_I (s : State) (fb : Framebuffer) :
    (s.setFB fb).I = s.I := rfl
@[simp] theorem State.setFB_pc (s : State) (fb : Framebuffer) :
    (s.setFB fb).pc = s.pc := rfl
@[simp] theorem State.setFB_sp (s : State) (fb : Framebuffer) :
    (s.setFB fb).sp = s.sp := rfl
@[simp] theorem State.setFB_stack (s : State) (fb : Framebuffer) :
    (s.setFB fb).stack = s.stack := rfl
@[simp] theorem State.setFB_DT (s : State) (fb : Framebuffer) :
    (s.setFB fb).DT = s.DT := rfl
@[simp] theorem State.setFB_ST (s : State) (fb : Framebuffer) :
    (s.setFB fb).ST = s.ST := rfl
@[simp] theorem State.setFB_mem (s : State) (fb : Framebuffer) :
    (s.setFB fb).mem = s.mem := rfl
@[simp] theorem State.setFB_FB (s : State) (fb : Framebuffer) :
    (s.setFB fb).FB = fb := rfl
@[simp] theorem State.setFB_K (s : State) (fb : Framebuffer) :
    (s.setFB fb).K = s.K := rfl
@[simp] theorem State.setFB_halted (s : State) (fb : Framebuffer) :
    (s.setFB fb).halted = s.halted := rfl
@[simp] theorem State.setFB_fault (s : State) (fb : Framebuffer) :
    (s.setFB fb).fault = s.fault := rfl
@[simp] theorem State.setFB_redraw (s : State) (fb : Framebuffer) :
    (s.setFB fb).redraw = s.redraw := rfl
@[simp] theorem State.setFB_blocked (s : State) (fb : Framebuffer) :
    (s.setFB fb).blocked = s.blocked := rfl
@[simp] theorem State.setFB_redrawOut (s : State) (fb : Framebuffer) :
    (s.setFB fb).redrawOut = s.redrawOut := rfl
@[simp] theorem State.setFB_left (s : State) (fb : Framebuffer) :
    (s.setFB fb).left = s.left := rfl
@[simp] theorem State.setFB_ticks (s : State) (fb : Framebuffer) :
    (s.setFB fb).ticks = s.ticks := rfl
@[simp] theorem State.setFB_draws (s : State) (fb : Framebuffer) :
    (s.setFB fb).draws = s.draws := rfl

/-! ### `State.signalRedraw` -/

@[simp] theorem State.signalRedraw_V (s : State) :
    (s.signalRedraw).V = s.V := rfl
@[simp] theorem State.signalRedraw_I (s : State) :
    (s.signalRedraw).I = s.I := rfl
@[simp] theorem State.signalRedraw_pc (s : State) :
    (s.signalRedraw).pc = s.pc := rfl
@[simp] theorem State.signalRedraw_sp (s : State) :
    (s.signalRedraw).sp = s.sp := rfl
@[simp] theorem State.signalRedraw_stack (s : State) :
    (s.signalRedraw).stack = s.stack := rfl
@[simp] theorem State.signalRedraw_DT (s : State) :
    (s.signalRedraw).DT = s.DT := rfl
@[simp] theorem State.signalRedraw_ST (s : State) :
    (s.signalRedraw).ST = s.ST := rfl
@[simp] theorem State.signalRedraw_mem (s : State) :
    (s.signalRedraw).mem = s.mem := rfl
@[simp] theorem State.signalRedraw_FB (s : State) :
    (s.signalRedraw).FB = s.FB := rfl
@[simp] theorem State.signalRedraw_K (s : State) :
    (s.signalRedraw).K = s.K := rfl
@[simp] theorem State.signalRedraw_halted (s : State) :
    (s.signalRedraw).halted = s.halted := rfl
@[simp] theorem State.signalRedraw_fault (s : State) :
    (s.signalRedraw).fault = s.fault := rfl
@[simp] theorem State.signalRedraw_redraw (s : State) :
    (s.signalRedraw).redraw = true := rfl
@[simp] theorem State.signalRedraw_blocked (s : State) :
    (s.signalRedraw).blocked = s.blocked := rfl
@[simp] theorem State.signalRedraw_redrawOut (s : State) :
    (s.signalRedraw).redrawOut = s.redrawOut := rfl
@[simp] theorem State.signalRedraw_left (s : State) :
    (s.signalRedraw).left = s.left := rfl
@[simp] theorem State.signalRedraw_ticks (s : State) :
    (s.signalRedraw).ticks = s.ticks := rfl
@[simp] theorem State.signalRedraw_draws (s : State) :
    (s.signalRedraw).draws = s.draws := rfl

/-! ### `State.clearResults` -/

@[simp] theorem State.clearResults_V (s : State) :
    (s.clearResults).V = s.V := rfl
@[simp] theorem State.clearResults_I (s : State) :
    (s.clearResults).I = s.I := rfl
@[simp] theorem State.clearResults_pc (s : State) :
    (s.clearResults).pc = s.pc := rfl
@[simp] theorem State.clearResults_sp (s : State) :
    (s.clearResults).sp = s.sp := rfl
@[simp] theorem State.clearResults_stack (s : State) :
    (s.clearResults).stack = s.stack := rfl
@[simp] theorem State.clearResults_DT (s : State) :
    (s.clearResults).DT = s.DT := rfl
@[simp] theorem State.clearResults_ST (s : State) :
    (s.clearResults).ST = s.ST := rfl
@[simp] theorem State.clearResults_mem (s : State) :
    (s.clearResults).mem = s.mem := rfl
@[simp] theorem State.clearResults_FB (s : State) :
    (s.clearResults).FB = s.FB := rfl
@[simp] theorem State.clearResults_K (s : State) :
    (s.clearResults).K = s.K := rfl
@[simp] theorem State.clearResults_halted (s : State) :
    (s.clearResults).halted = s.halted := rfl
@[simp] theorem State.clearResults_fault (s : State) :
    (s.clearResults).fault = s.fault := rfl
@[simp] theorem State.clearResults_redraw (s : State) :
    (s.clearResults).redraw = false := rfl
@[simp] theorem State.clearResults_blocked (s : State) :
    (s.clearResults).blocked = false := rfl
@[simp] theorem State.clearResults_redrawOut (s : State) :
    (s.clearResults).redrawOut = s.redrawOut := rfl
@[simp] theorem State.clearResults_left (s : State) :
    (s.clearResults).left = s.left := rfl
@[simp] theorem State.clearResults_ticks (s : State) :
    (s.clearResults).ticks = s.ticks := rfl
@[simp] theorem State.clearResults_draws (s : State) :
    (s.clearResults).draws = s.draws := rfl

/-! ### `State.countDraw` -/

@[simp] theorem State.countDraw_V (s : State) :
    (s.countDraw).V = s.V := rfl
@[simp] theorem State.countDraw_I (s : State) :
    (s.countDraw).I = s.I := rfl
@[simp] theorem State.countDraw_pc (s : State) :
    (s.countDraw).pc = s.pc := rfl
@[simp] theorem State.countDraw_sp (s : State) :
    (s.countDraw).sp = s.sp := rfl
@[simp] theorem State.countDraw_stack (s : State) :
    (s.countDraw).stack = s.stack := rfl
@[simp] theorem State.countDraw_DT (s : State) :
    (s.countDraw).DT = s.DT := rfl
@[simp] theorem State.countDraw_ST (s : State) :
    (s.countDraw).ST = s.ST := rfl
@[simp] theorem State.countDraw_mem (s : State) :
    (s.countDraw).mem = s.mem := rfl
@[simp] theorem State.countDraw_FB (s : State) :
    (s.countDraw).FB = s.FB := rfl
@[simp] theorem State.countDraw_K (s : State) :
    (s.countDraw).K = s.K := rfl
@[simp] theorem State.countDraw_halted (s : State) :
    (s.countDraw).halted = s.halted := rfl
@[simp] theorem State.countDraw_fault (s : State) :
    (s.countDraw).fault = s.fault := rfl
@[simp] theorem State.countDraw_redraw (s : State) :
    (s.countDraw).redraw = s.redraw := rfl
@[simp] theorem State.countDraw_blocked (s : State) :
    (s.countDraw).blocked = s.blocked := rfl
@[simp] theorem State.countDraw_redrawOut (s : State) :
    (s.countDraw).redrawOut = s.redrawOut := rfl
@[simp] theorem State.countDraw_left (s : State) :
    (s.countDraw).left = s.left := rfl
@[simp] theorem State.countDraw_ticks (s : State) :
    (s.countDraw).ticks = s.ticks := rfl
@[simp] theorem State.countDraw_draws (s : State) :
    (s.countDraw).draws = s.draws + 1 := rfl

/-! ### `State.raise` -/

@[simp] theorem State.raise_V (s : State) (kind : FaultKind) (word : Option Word) :
    (s.raise kind word).V = s.V := rfl
@[simp] theorem State.raise_I (s : State) (kind : FaultKind) (word : Option Word) :
    (s.raise kind word).I = s.I := rfl
@[simp] theorem State.raise_pc (s : State) (kind : FaultKind) (word : Option Word) :
    (s.raise kind word).pc = s.pc := rfl
@[simp] theorem State.raise_sp (s : State) (kind : FaultKind) (word : Option Word) :
    (s.raise kind word).sp = s.sp := rfl
@[simp] theorem State.raise_stack (s : State) (kind : FaultKind) (word : Option Word) :
    (s.raise kind word).stack = s.stack := rfl
@[simp] theorem State.raise_DT (s : State) (kind : FaultKind) (word : Option Word) :
    (s.raise kind word).DT = s.DT := rfl
@[simp] theorem State.raise_ST (s : State) (kind : FaultKind) (word : Option Word) :
    (s.raise kind word).ST = s.ST := rfl
@[simp] theorem State.raise_mem (s : State) (kind : FaultKind) (word : Option Word) :
    (s.raise kind word).mem = s.mem := rfl
@[simp] theorem State.raise_FB (s : State) (kind : FaultKind) (word : Option Word) :
    (s.raise kind word).FB = s.FB := rfl
@[simp] theorem State.raise_K (s : State) (kind : FaultKind) (word : Option Word) :
    (s.raise kind word).K = s.K := rfl
@[simp] theorem State.raise_halted (s : State) (kind : FaultKind) (word : Option Word) :
    (s.raise kind word).halted = true := rfl
@[simp] theorem State.raise_fault (s : State) (kind : FaultKind) (word : Option Word) :
    (s.raise kind word).fault = some ⟨kind, s.pc, word⟩ := rfl
@[simp] theorem State.raise_redraw (s : State) (kind : FaultKind) (word : Option Word) :
    (s.raise kind word).redraw = s.redraw := rfl
@[simp] theorem State.raise_blocked (s : State) (kind : FaultKind) (word : Option Word) :
    (s.raise kind word).blocked = s.blocked := rfl
@[simp] theorem State.raise_redrawOut (s : State) (kind : FaultKind) (word : Option Word) :
    (s.raise kind word).redrawOut = s.redrawOut := rfl
@[simp] theorem State.raise_left (s : State) (kind : FaultKind) (word : Option Word) :
    (s.raise kind word).left = s.left := rfl
@[simp] theorem State.raise_ticks (s : State) (kind : FaultKind) (word : Option Word) :
    (s.raise kind word).ticks = s.ticks := rfl
@[simp] theorem State.raise_draws (s : State) (kind : FaultKind) (word : Option Word) :
    (s.raise kind word).draws = s.draws := rfl

/-! ### `State.putWithFlag` -/

@[simp] theorem State.putWithFlag_V (s : State) (x : Nibble) (result : Byte) (flag : Bool) :
    (s.putWithFlag x result flag).V = writeReg (writeReg s.V x result) regVF (flagByte flag) := rfl
@[simp] theorem State.putWithFlag_I (s : State) (x : Nibble) (result : Byte) (flag : Bool) :
    (s.putWithFlag x result flag).I = s.I := rfl
@[simp] theorem State.putWithFlag_pc (s : State) (x : Nibble) (result : Byte) (flag : Bool) :
    (s.putWithFlag x result flag).pc = s.pc + 2 := rfl
@[simp] theorem State.putWithFlag_sp (s : State) (x : Nibble) (result : Byte) (flag : Bool) :
    (s.putWithFlag x result flag).sp = s.sp := rfl
@[simp] theorem State.putWithFlag_stack (s : State) (x : Nibble) (result : Byte) (flag : Bool) :
    (s.putWithFlag x result flag).stack = s.stack := rfl
@[simp] theorem State.putWithFlag_DT (s : State) (x : Nibble) (result : Byte) (flag : Bool) :
    (s.putWithFlag x result flag).DT = s.DT := rfl
@[simp] theorem State.putWithFlag_ST (s : State) (x : Nibble) (result : Byte) (flag : Bool) :
    (s.putWithFlag x result flag).ST = s.ST := rfl
@[simp] theorem State.putWithFlag_mem (s : State) (x : Nibble) (result : Byte) (flag : Bool) :
    (s.putWithFlag x result flag).mem = s.mem := rfl
@[simp] theorem State.putWithFlag_FB (s : State) (x : Nibble) (result : Byte) (flag : Bool) :
    (s.putWithFlag x result flag).FB = s.FB := rfl
@[simp] theorem State.putWithFlag_K (s : State) (x : Nibble) (result : Byte) (flag : Bool) :
    (s.putWithFlag x result flag).K = s.K := rfl
@[simp] theorem State.putWithFlag_halted (s : State) (x : Nibble) (result : Byte) (flag : Bool) :
    (s.putWithFlag x result flag).halted = s.halted := rfl
@[simp] theorem State.putWithFlag_fault (s : State) (x : Nibble) (result : Byte) (flag : Bool) :
    (s.putWithFlag x result flag).fault = s.fault := rfl
@[simp] theorem State.putWithFlag_redraw (s : State) (x : Nibble) (result : Byte) (flag : Bool) :
    (s.putWithFlag x result flag).redraw = s.redraw := rfl
@[simp] theorem State.putWithFlag_blocked (s : State) (x : Nibble) (result : Byte) (flag : Bool) :
    (s.putWithFlag x result flag).blocked = s.blocked := rfl
@[simp] theorem State.putWithFlag_redrawOut (s : State) (x : Nibble) (result : Byte) (flag : Bool) :
    (s.putWithFlag x result flag).redrawOut = s.redrawOut := rfl
@[simp] theorem State.putWithFlag_left (s : State) (x : Nibble) (result : Byte) (flag : Bool) :
    (s.putWithFlag x result flag).left = s.left := rfl
@[simp] theorem State.putWithFlag_ticks (s : State) (x : Nibble) (result : Byte) (flag : Bool) :
    (s.putWithFlag x result flag).ticks = s.ticks := rfl
@[simp] theorem State.putWithFlag_draws (s : State) (x : Nibble) (result : Byte) (flag : Bool) :
    (s.putWithFlag x result flag).draws = s.draws := rfl

/-! ### `State.beginTick` -/

@[simp] theorem State.beginTick_V (s : State) :
    (s.beginTick).V = s.V := rfl
@[simp] theorem State.beginTick_I (s : State) :
    (s.beginTick).I = s.I := rfl
@[simp] theorem State.beginTick_pc (s : State) :
    (s.beginTick).pc = s.pc := rfl
@[simp] theorem State.beginTick_sp (s : State) :
    (s.beginTick).sp = s.sp := rfl
@[simp] theorem State.beginTick_stack (s : State) :
    (s.beginTick).stack = s.stack := rfl
@[simp] theorem State.beginTick_DT (s : State) :
    (s.beginTick).DT = s.DT := rfl
@[simp] theorem State.beginTick_ST (s : State) :
    (s.beginTick).ST = s.ST := rfl
@[simp] theorem State.beginTick_mem (s : State) :
    (s.beginTick).mem = s.mem := rfl
@[simp] theorem State.beginTick_FB (s : State) :
    (s.beginTick).FB = s.FB := rfl
@[simp] theorem State.beginTick_K (s : State) :
    (s.beginTick).K = if s.left = 0 then Config.keys s.ticks else s.K := rfl
@[simp] theorem State.beginTick_halted (s : State) :
    (s.beginTick).halted = s.halted := rfl
@[simp] theorem State.beginTick_fault (s : State) :
    (s.beginTick).fault = s.fault := rfl
@[simp] theorem State.beginTick_redraw (s : State) :
    (s.beginTick).redraw = s.redraw := rfl
@[simp] theorem State.beginTick_blocked (s : State) :
    (s.beginTick).blocked = s.blocked := rfl
@[simp] theorem State.beginTick_redrawOut (s : State) :
    (s.beginTick).redrawOut = if s.left = 0 then false else s.redrawOut := rfl
@[simp] theorem State.beginTick_left (s : State) :
    (s.beginTick).left = if s.left = 0 then Config.instrPerTick else s.left := rfl
@[simp] theorem State.beginTick_ticks (s : State) :
    (s.beginTick).ticks = if s.left = 0 then s.ticks + 1 else s.ticks := rfl
@[simp] theorem State.beginTick_draws (s : State) :
    (s.beginTick).draws = s.draws := rfl

/-! ### `State.endStep` -/

@[simp] theorem State.endStep_V (s : State) :
    (s.endStep).V = s.V := rfl
@[simp] theorem State.endStep_I (s : State) :
    (s.endStep).I = s.I := rfl
@[simp] theorem State.endStep_pc (s : State) :
    (s.endStep).pc = s.pc := rfl
@[simp] theorem State.endStep_sp (s : State) :
    (s.endStep).sp = s.sp := rfl
@[simp] theorem State.endStep_stack (s : State) :
    (s.endStep).stack = s.stack := rfl
@[simp] theorem State.endStep_DT (s : State) :
    (s.endStep).DT = if s.tickOver && !s.halted then countDown s.DT else s.DT := rfl
@[simp] theorem State.endStep_ST (s : State) :
    (s.endStep).ST = if s.tickOver && !s.halted then countDown s.ST else s.ST := rfl
@[simp] theorem State.endStep_mem (s : State) :
    (s.endStep).mem = s.mem := rfl
@[simp] theorem State.endStep_FB (s : State) :
    (s.endStep).FB = s.FB := rfl
@[simp] theorem State.endStep_K (s : State) :
    (s.endStep).K = s.K := rfl
@[simp] theorem State.endStep_halted (s : State) :
    (s.endStep).halted = s.halted := rfl
@[simp] theorem State.endStep_fault (s : State) :
    (s.endStep).fault = s.fault := rfl
@[simp] theorem State.endStep_redraw (s : State) :
    (s.endStep).redraw = s.redraw := rfl
@[simp] theorem State.endStep_blocked (s : State) :
    (s.endStep).blocked = s.blocked := rfl
@[simp] theorem State.endStep_redrawOut (s : State) :
    (s.endStep).redrawOut = (s.redrawOut || s.redraw) := rfl
@[simp] theorem State.endStep_left (s : State) :
    (s.endStep).left = if s.tickOver then 0 else s.left - 1 := rfl
@[simp] theorem State.endStep_ticks (s : State) :
    (s.endStep).ticks = s.ticks := rfl
@[simp] theorem State.endStep_draws (s : State) :
    (s.endStep).draws = s.draws := rfl

/-! ### `State.haltedTick` -/

@[simp] theorem State.haltedTick_V (s : State) :
    (s.haltedTick).V = s.V := rfl
@[simp] theorem State.haltedTick_I (s : State) :
    (s.haltedTick).I = s.I := rfl
@[simp] theorem State.haltedTick_pc (s : State) :
    (s.haltedTick).pc = s.pc := rfl
@[simp] theorem State.haltedTick_sp (s : State) :
    (s.haltedTick).sp = s.sp := rfl
@[simp] theorem State.haltedTick_stack (s : State) :
    (s.haltedTick).stack = s.stack := rfl
@[simp] theorem State.haltedTick_DT (s : State) :
    (s.haltedTick).DT = s.DT := rfl
@[simp] theorem State.haltedTick_ST (s : State) :
    (s.haltedTick).ST = s.ST := rfl
@[simp] theorem State.haltedTick_mem (s : State) :
    (s.haltedTick).mem = s.mem := rfl
@[simp] theorem State.haltedTick_FB (s : State) :
    (s.haltedTick).FB = s.FB := rfl
@[simp] theorem State.haltedTick_K (s : State) :
    (s.haltedTick).K = s.K := rfl
@[simp] theorem State.haltedTick_halted (s : State) :
    (s.haltedTick).halted = s.halted := rfl
@[simp] theorem State.haltedTick_fault (s : State) :
    (s.haltedTick).fault = s.fault := rfl
@[simp] theorem State.haltedTick_redraw (s : State) :
    (s.haltedTick).redraw = s.redraw := rfl
@[simp] theorem State.haltedTick_blocked (s : State) :
    (s.haltedTick).blocked = s.blocked := rfl
@[simp] theorem State.haltedTick_redrawOut (s : State) :
    (s.haltedTick).redrawOut = false := rfl
@[simp] theorem State.haltedTick_left (s : State) :
    (s.haltedTick).left = s.left := rfl
@[simp] theorem State.haltedTick_ticks (s : State) :
    (s.haltedTick).ticks = s.ticks := rfl
@[simp] theorem State.haltedTick_draws (s : State) :
    (s.haltedTick).draws = s.draws := rfl

/-! ### `State.noteRedraw` -/

@[simp] theorem State.noteRedraw_V (s : State) :
    (s.noteRedraw).V = s.V := rfl
@[simp] theorem State.noteRedraw_I (s : State) :
    (s.noteRedraw).I = s.I := rfl
@[simp] theorem State.noteRedraw_pc (s : State) :
    (s.noteRedraw).pc = s.pc := rfl
@[simp] theorem State.noteRedraw_sp (s : State) :
    (s.noteRedraw).sp = s.sp := rfl
@[simp] theorem State.noteRedraw_stack (s : State) :
    (s.noteRedraw).stack = s.stack := rfl
@[simp] theorem State.noteRedraw_DT (s : State) :
    (s.noteRedraw).DT = s.DT := rfl
@[simp] theorem State.noteRedraw_ST (s : State) :
    (s.noteRedraw).ST = s.ST := rfl
@[simp] theorem State.noteRedraw_mem (s : State) :
    (s.noteRedraw).mem = s.mem := rfl
@[simp] theorem State.noteRedraw_FB (s : State) :
    (s.noteRedraw).FB = s.FB := rfl
@[simp] theorem State.noteRedraw_K (s : State) :
    (s.noteRedraw).K = s.K := rfl
@[simp] theorem State.noteRedraw_halted (s : State) :
    (s.noteRedraw).halted = s.halted := rfl
@[simp] theorem State.noteRedraw_fault (s : State) :
    (s.noteRedraw).fault = s.fault := rfl
@[simp] theorem State.noteRedraw_redraw (s : State) :
    (s.noteRedraw).redraw = s.redraw := rfl
@[simp] theorem State.noteRedraw_blocked (s : State) :
    (s.noteRedraw).blocked = s.blocked := rfl
@[simp] theorem State.noteRedraw_redrawOut (s : State) :
    (s.noteRedraw).redrawOut = (s.redrawOut || s.redraw) := rfl
@[simp] theorem State.noteRedraw_left (s : State) :
    (s.noteRedraw).left = s.left := rfl
@[simp] theorem State.noteRedraw_ticks (s : State) :
    (s.noteRedraw).ticks = s.ticks := rfl
@[simp] theorem State.noteRedraw_draws (s : State) :
    (s.noteRedraw).draws = s.draws := rfl

/-! ### `State.decrementTimers` -/

@[simp] theorem State.decrementTimers_V (s : State) :
    (s.decrementTimers).V = s.V := rfl
@[simp] theorem State.decrementTimers_I (s : State) :
    (s.decrementTimers).I = s.I := rfl
@[simp] theorem State.decrementTimers_pc (s : State) :
    (s.decrementTimers).pc = s.pc := rfl
@[simp] theorem State.decrementTimers_sp (s : State) :
    (s.decrementTimers).sp = s.sp := rfl
@[simp] theorem State.decrementTimers_stack (s : State) :
    (s.decrementTimers).stack = s.stack := rfl
@[simp] theorem State.decrementTimers_DT (s : State) :
    (s.decrementTimers).DT = countDown s.DT := rfl
@[simp] theorem State.decrementTimers_ST (s : State) :
    (s.decrementTimers).ST = countDown s.ST := rfl
@[simp] theorem State.decrementTimers_mem (s : State) :
    (s.decrementTimers).mem = s.mem := rfl
@[simp] theorem State.decrementTimers_FB (s : State) :
    (s.decrementTimers).FB = s.FB := rfl
@[simp] theorem State.decrementTimers_K (s : State) :
    (s.decrementTimers).K = s.K := rfl
@[simp] theorem State.decrementTimers_halted (s : State) :
    (s.decrementTimers).halted = s.halted := rfl
@[simp] theorem State.decrementTimers_fault (s : State) :
    (s.decrementTimers).fault = s.fault := rfl
@[simp] theorem State.decrementTimers_redraw (s : State) :
    (s.decrementTimers).redraw = s.redraw := rfl
@[simp] theorem State.decrementTimers_blocked (s : State) :
    (s.decrementTimers).blocked = s.blocked := rfl
@[simp] theorem State.decrementTimers_redrawOut (s : State) :
    (s.decrementTimers).redrawOut = s.redrawOut := rfl
@[simp] theorem State.decrementTimers_left (s : State) :
    (s.decrementTimers).left = s.left := rfl
@[simp] theorem State.decrementTimers_ticks (s : State) :
    (s.decrementTimers).ticks = s.ticks := rfl
@[simp] theorem State.decrementTimers_draws (s : State) :
    (s.decrementTimers).draws = s.draws := rfl

/-! ### Reading a register after an update -/

@[simp] theorem State.reg_eq (s : State) (r : Nibble) : s.reg r = readReg s.V r := rfl

end Sys2Proof.Machine
end

