-- ==== Sys2Proof/Laws/Step.lean ====
section
/-! SUPPORT. What an instruction, a Step and a step can do, said once (spec/10_state.md R15 to R27,
spec/30_encoding.md R60, spec/60_exceptions.md R110, R116). -/

namespace Sys2Proof.Machine

/-- The fields no instruction writes unless it raises a fault: the latch and the driver's own state always,
`halted` and `fault` unless it raises, which is one of the three execution faults (60_exceptions.md R110, R113). -/
theorem exec_keeps (i : Instr) (s t : State) (h : exec i s = .next t) :
    (∃ k, k ≠ .invalidOpcode ∧ k ≠ .fetchOutOfRange ∧ t = s.raise k (some (encode i))) ∨
      (t.K = s.K ∧ t.halted = s.halted ∧ t.fault = s.fault ∧ t.redrawOut = s.redrawOut ∧
        t.left = s.left ∧ t.ticks = s.ticks) := by
  cases i
  case ret =>
    simp only [exec, execRet] at h
    split at h
    · injection h with h; exact .inl ⟨_, by decide, by decide, h.symm⟩
    · split at h
      · cases h
      · injection h with h; subst h; exact .inr ⟨rfl, rfl, rfl, rfl, rfl, rfl⟩
  case call nnn =>
    simp only [exec, execCall] at h
    split at h
    · injection h with h; exact .inl ⟨_, by decide, by decide, h.symm⟩
    · split at h
      · cases h
      · injection h with h; subst h; exact .inr ⟨rfl, rfl, rfl, rfl, rfl, rfl⟩
  case skp x =>
    simp only [exec, execSkp] at h
    split at h
    · injection h with h; exact .inl ⟨_, by decide, by decide, h.symm⟩
    · injection h with h; subst h; exact .inr ⟨rfl, rfl, rfl, rfl, rfl, rfl⟩
  case sknp x =>
    simp only [exec, execSknp] at h
    split at h
    · injection h with h; exact .inl ⟨_, by decide, by decide, h.symm⟩
    · injection h with h; subst h; exact .inr ⟨rfl, rfl, rfl, rfl, rfl, rfl⟩
  all_goals
    injection h with h
    subst h
    exact .inr ⟨rfl, rfl, rfl, rfl, rfl, rfl⟩

/-- What a Step that answers a next state did: raised FetchOutOfRange, raised InvalidOpcode, or ran the
instruction its word decodes to (30_encoding.md R60). -/
theorem coreStep_cases {s t : State} (h : coreStep s = .next t) :
    (fetchInRange s.pc = false ∧ t = s.clearResults.raise .fetchOutOfRange none) ∨
    (fetchInRange s.pc = true ∧ (∃ why, decode s.fetchWord = .illegal why) ∧
      t = s.clearResults.raise .invalidOpcode (some s.fetchWord)) ∨
    (fetchInRange s.pc = true ∧ ∃ i, decode s.fetchWord = .instr i ∧ exec i s.clearResults = .next t) := by
  unfold coreStep at h
  split at h
  · rename_i hf
    split at h
    · rename_i i hd
      exact .inr (.inr ⟨hf, i, hd, h⟩)
    · rename_i why hd
      injection h with h
      exact .inr (.inl ⟨hf, ⟨why, hd⟩, h.symm⟩)
  · rename_i hf
    injection h with h
    exact .inl ⟨by simpa using hf, h.symm⟩

/-- What a step that answers a next state did: nothing but the `redraw_out` of a halted Tick, or one Step
between the start and the end actions of its Tick (60_exceptions.md R116, R118). -/
theorem step_cases {s t : State} (h : step s = .next t) :
    (s.halted = true ∧ t = s.haltedTick) ∨
      (s.halted = false ∧ ∃ u, coreStep s.beginTick = .next u ∧ t = u.endStep) := by
  unfold step at h
  split at h
  · rename_i hh
    injection h with h
    exact .inl ⟨hh, h.symm⟩
  · rename_i hh
    unfold afterStep at h
    split at h
    · rename_i u hu
      injection h with h
      exact .inr ⟨by simpa using hh, u, hu, h.symm⟩
    · cases h
    · cases h

/-- A Step either halts the block with a record of the `pc` it started at, or leaves `halted` and `fault`
as they were; it never writes the latch or the driver's own state. -/
theorem coreStep_keeps {s t : State} (h : coreStep s = .next t) :
    (∃ k w, t = s.clearResults.raise k w) ∨
      (t.K = s.K ∧ t.halted = s.halted ∧ t.fault = s.fault ∧ t.redrawOut = s.redrawOut ∧
        t.left = s.left ∧ t.ticks = s.ticks) := by
  obtain ⟨-, h⟩ | ⟨-, -, h⟩ | ⟨-, i, -, h⟩ := coreStep_cases h
  · exact .inl ⟨_, _, h⟩
  · exact .inl ⟨_, _, h⟩
  · obtain ⟨k, -, -, h⟩ | h := exec_keeps i s.clearResults t h
    · exact .inl ⟨k, _, h⟩
    · exact .inr h

/-- In the halted state a step changes nothing but `redrawOut`. -/
theorem step_halted {s : State} (h : s.halted = true) : step s = .next s.haltedTick := by
  simp [step, h]

/-- Outside the halted state a step is one Step between the actions of its Tick. -/
theorem step_running {s : State} (h : s.halted = false) : step s = afterStep (coreStep s.beginTick) := by
  simp [step, h]

/-- A run of one step more, when its first step answers a next state. -/
theorem run_succ_next {s t : State} (k : Nat) (h : step s = .next t) :
    Host.Core.run core (k + 1) s = Host.Core.run core k t := by
  have h' : core.step s = .next t := h
  simp only [Host.Core.run]
  rw [h']

/-- Two states with the same step have the same run of one step or more. -/
theorem run_succ_congr {s t : State} (k : Nat) (h : step s = step t) :
    Host.Core.run core (k + 1) s = Host.Core.run core (k + 1) t := by
  have h' : core.step s = core.step t := h
  simp only [Host.Core.run]
  rw [h']

/-- A run of no step. -/
theorem run_zero (s : State) : Host.Core.run core 0 s = .next s := rfl

end Sys2Proof.Machine
end

