-- ==== Sys2Proof/Tests/Slice0.lean ====
section
/-! SUPPORT. The model's own tests: ill-formed words, the decoding of every form from words written out bit by bit
from spec/30_encoding.md, one step of every instruction with the values of spec/95_test_vectors.md, and a witness
for the hypotheses of every statement that has any. -/

namespace Sys2Proof.Tests

open Sys2Proof.Machine

/-! ### Helpers -/

/-- A field of the next state, where there is one. -/
def seen {α : Type} (r : Result) (f : State → α) : Option α :=
  match r with
  | .next t => some (f t)
  | .fault _ => none
  | .refused _ => none

/-- Registers, all 0 but those listed. -/
def regs (l : List (Nibble × Byte)) : RegFile :=
  l.foldl (fun V p => writeReg V p.1 p.2) (Vector.replicate 16 0)

/-- Memory at its reset contents but for the bytes listed. -/
def bytes (l : List (Addr × Byte)) : Memory := l.foldl (fun m p => writeByte m p.1 p.2) []

/-- The reset state with a Tick in flight that may run two more Steps, so that no free value enters a test. -/
def mid : State := { State.reset with left := 2 }

/-- The reset state in the last Step of a Tick. -/
def last : State := { State.reset with left := 1 }

/-- A field of the state after one step that runs the word at the state's `pc`. -/
def ran {α : Type} (s : State) (w : Nat) (f : State → α) : Option α := seen (step (s.withFetchWord 16 w)) f

/-- The pixels of a row as a number, bit `c` for column `c`. -/
def rowBits (s : State) (row : Fin 32) : BitVec 64 := s.FB[row]

/-! ### Ill-formed words: the check on words refuses one of each class (30_encoding.md R56) -/

theorem test_ill_formed_words :
    [0x0000, 0x00E1, 0x5121, 0x8AB8, 0x9AB1, 0xE19F, 0xF100].map wordWellFormed = List.replicate 7 false := by
  decide

theorem test_ill_formed_spelling :
    Instr.spelledBy 0x6A05 (.ldByte 0xA 0x06) = false ∧ Instr.spelledBy 0x6A05 (.addByte 0xA 0x05) = false ∧
    Instr.spelledBy 0xD125 (.drw 1 2 4) = false ∧ Instr.spelledBy 0x1ABC (.jp 0xABD) = false ∧
    Instr.spelledBy 0x6A05 (.ldByte 0xA 0x05) = true := by
  decide

theorem test_decode_rejects_by_name :
    decode 0x0000 = .illegal .class0 ∧ decode 0x00E1 = .illegal .class0 ∧ decode 0x0FFF = .illegal .class0 ∧
    decode 0x5121 = .illegal .class5 ∧ decode 0x8AB8 = .illegal .class8 ∧ decode 0x8ABF = .illegal .class8 ∧
    decode 0x9AB1 = .illegal .class9 ∧ decode 0xE19F = .illegal .classE ∧ decode 0xE1A0 = .illegal .classE ∧
    decode 0xF100 = .illegal .classF ∧ decode 0xF175 = .illegal .classF := by
  decide

theorem test_decode_bytes :
    decodeBytes [0x6A, 0x05, 0xFF] = .instr (.ldByte 0xA 5) [0xFF] ∧ decodeBytes [0x6A] = .truncated ∧
    decodeBytes [] = .truncated ∧ decodeBytes [0x00, 0x00] = .illegal .class0 := by
  decide

theorem test_table_word :
    decodeTableWord 16 0x1ABC = some (.jp 0xABC) ∧ decodeTableWord 16 0x0000 = none ∧
    decodeTableWord 17 0x1ABC = none := by
  decide

/-! ### Decoding, from words written out by the bits of 30_encoding.md R51 to R53 -/

-- The words are `class x y n`, `class x kk` or `class nnn`, in groups of four bits from bit 15 down.
theorem test_decode_class_0_1_2_B :
    decode (0b0000#4 ++ 0b0000#4 ++ 0b1110#4 ++ 0b0000#4) = .instr .cls ∧
    decode (0b0000#4 ++ 0b0000#4 ++ 0b1110#4 ++ 0b1110#4) = .instr .ret ∧
    decode (0b0001#4 ++ 0b1010#4 ++ 0b1011#4 ++ 0b1100#4) = .instr (.jp 0xABC) ∧
    decode (0b0010#4 ++ 0b0000#4 ++ 0b0000#4 ++ 0b0001#4) = .instr (.call 0x001) ∧
    decode (0b1011#4 ++ 0b1111#4 ++ 0b0000#4 ++ 0b1111#4) = .instr (.jpV0 0xF0F) := by
  decide

theorem test_decode_skips :
    decode (0b0011#4 ++ 0b1010#4 ++ 0b0111#4 ++ 0b1111#4) = .instr (.seByte 0xA 0x7F) ∧
    decode (0b0100#4 ++ 0b0001#4 ++ 0b1000#4 ++ 0b0000#4) = .instr (.sneByte 0x1 0x80) ∧
    decode (0b0101#4 ++ 0b0001#4 ++ 0b0010#4 ++ 0b0000#4) = .instr (.seReg 0x1 0x2) ∧
    decode (0b1001#4 ++ 0b1010#4 ++ 0b1011#4 ++ 0b0000#4) = .instr (.sneReg 0xA 0xB) := by
  decide

theorem test_decode_loads_and_alu :
    decode (0b0110#4 ++ 0b1010#4 ++ 0b0000#4 ++ 0b0101#4) = .instr (.ldByte 0xA 0x05) ∧
    decode (0b0111#4 ++ 0b0011#4 ++ 0b0010#4 ++ 0b0000#4) = .instr (.addByte 0x3 0x20) ∧
    decode (0b1000#4 ++ 0b0001#4 ++ 0b0010#4 ++ 0b0000#4) = .instr (.ldReg 0x1 0x2) ∧
    decode (0b1000#4 ++ 0b0001#4 ++ 0b0010#4 ++ 0b0001#4) = .instr (.orReg 0x1 0x2) ∧
    decode (0b1000#4 ++ 0b0001#4 ++ 0b0010#4 ++ 0b0010#4) = .instr (.andReg 0x1 0x2) ∧
    decode (0b1000#4 ++ 0b0001#4 ++ 0b0010#4 ++ 0b0011#4) = .instr (.xorReg 0x1 0x2) := by
  decide

theorem test_decode_arithmetic :
    decode (0b1000#4 ++ 0b1010#4 ++ 0b1011#4 ++ 0b0100#4) = .instr (.addReg 0xA 0xB) ∧
    decode (0b1000#4 ++ 0b1010#4 ++ 0b1011#4 ++ 0b0101#4) = .instr (.subReg 0xA 0xB) ∧
    decode (0b1000#4 ++ 0b1010#4 ++ 0b1011#4 ++ 0b0110#4) = .instr (.shr 0xA 0xB) ∧
    decode (0b1000#4 ++ 0b1010#4 ++ 0b1011#4 ++ 0b0111#4) = .instr (.subnReg 0xA 0xB) ∧
    decode (0b1000#4 ++ 0b1010#4 ++ 0b1011#4 ++ 0b1110#4) = .instr (.shl 0xA 0xB) := by
  decide

theorem test_decode_index_display_random_keys :
    decode (0b1010#4 ++ 0b0001#4 ++ 0b0010#4 ++ 0b0011#4) = .instr (.ldI 0x123) ∧
    decode (0b1101#4 ++ 0b0001#4 ++ 0b0010#4 ++ 0b0101#4) = .instr (.drw 0x1 0x2 0x5) ∧
    decode (0b1100#4 ++ 0b0011#4 ++ 0b0000#4 ++ 0b1111#4) = .instr (.rnd 0x3 0x0F) ∧
    decode (0b1110#4 ++ 0b0010#4 ++ 0b1001#4 ++ 0b1110#4) = .instr (.skp 0x2) ∧
    decode (0b1110#4 ++ 0b0010#4 ++ 0b1010#4 ++ 0b0001#4) = .instr (.sknp 0x2) := by
  decide

theorem test_decode_class_F :
    decode (0b1111#4 ++ 0b0001#4 ++ 0b0000#4 ++ 0b0111#4) = .instr (.ldVxDT 0x1) ∧
    decode (0b1111#4 ++ 0b0010#4 ++ 0b0000#4 ++ 0b1010#4) = .instr (.ldVxK 0x2) ∧
    decode (0b1111#4 ++ 0b0011#4 ++ 0b0001#4 ++ 0b0101#4) = .instr (.ldDTVx 0x3) ∧
    decode (0b1111#4 ++ 0b0100#4 ++ 0b0001#4 ++ 0b1000#4) = .instr (.ldSTVx 0x4) ∧
    decode (0b1111#4 ++ 0b0101#4 ++ 0b0001#4 ++ 0b1110#4) = .instr (.addI 0x5) ∧
    decode (0b1111#4 ++ 0b0110#4 ++ 0b0010#4 ++ 0b1001#4) = .instr (.ldF 0x6) ∧
    decode (0b1111#4 ++ 0b0111#4 ++ 0b0011#4 ++ 0b0011#4) = .instr (.ldB 0x7) ∧
    decode (0b1111#4 ++ 0b1000#4 ++ 0b0101#4 ++ 0b0101#4) = .instr (.storeRegs 0x8) ∧
    decode (0b1111#4 ++ 0b1111#4 ++ 0b0110#4 ++ 0b0101#4) = .instr (.loadRegs 0xF) := by
  decide

/-! ### One step of every instruction, values of 95_test_vectors.md -/

-- L2-DISP row 1
theorem test_cls :
    ran { mid with FB := Vector.replicate 32 0xFF, V := regs [(15, 7)] } 0x00E0
      (fun t => (rowBits t 0, rowBits t 31, t.reg 15, t.redraw, t.pc)) = some (0, 0, 7, true, 0x202) := by
  decide

-- L2-FLOW, the two rows of `00EE`
theorem test_ret :
    ran { mid with pc := 0x300, sp := 4, stack := (Vector.replicate 16 0).set 3 0x250 } 0x00EE
      (fun t => (t.sp, t.pc, t.stack[3], t.halted)) = some (3, 0x252, 0x250, false) := by
  decide

theorem test_ret_underflow :
    ran mid 0x00EE (fun t => (t.halted, t.pc)) = some (true, 0x200) ∧
    ran mid 0x00EE (·.faultReport) = some (some (3, 0x200, some 0x00EE)) := by
  decide

theorem test_jp : ran mid 0x1234 (·.pc) = some 0x234 := by decide

-- L2-FLOW, `1FFF`: the next Step faults
theorem test_jp_then_fetch_fault :
    seen (step { mid with pc := 0xFFF }) (fun t => (t.faultReport, t.pc)) =
      some (some (4, 0xFFF, none), 0xFFF) := by
  decide

theorem test_call :
    ran { mid with pc := 0x250, sp := 15 } 0x2ABC (fun t => (t.stack[15], t.sp, t.pc, t.halted)) =
      some (0x250, 16, 0xABC, false) := by
  decide

theorem test_call_overflow :
    ran { mid with pc := 0x250, sp := 16 } 0x2ABC (fun t => (t.sp, t.pc)) = some (16, 0x250) ∧
    ran { mid with pc := 0x250, sp := 16 } 0x2ABC (·.faultReport) = some (some (2, 0x250, some 0x2ABC)) := by
  decide

theorem test_jpV0 :
    ran { mid with pc := 0x202, V := regs [(0, 0xFF)] } 0xBFFF (·.pc) = some 0x10FE ∧
    ran { mid with V := regs [(3, 9)] } 0xB300 (·.pc) = some 0x300 := by
  decide

theorem test_seByte :
    ran { mid with V := regs [(10, 5)] } 0x3A05 (·.pc) = some 0x204 ∧
    ran { mid with V := regs [(10, 6)] } 0x3A05 (·.pc) = some 0x202 := by
  decide

theorem test_sneByte :
    ran { mid with V := regs [(10, 5)] } 0x4A05 (·.pc) = some 0x202 ∧
    ran { mid with V := regs [(10, 6)] } 0x4A05 (·.pc) = some 0x204 := by
  decide

theorem test_seReg :
    ran { mid with V := regs [(10, 0x80), (11, 0x80)] } 0x5AB0 (·.pc) = some 0x204 ∧
    ran { mid with V := regs [(10, 1), (11, 2)] } 0x5AB0 (·.pc) = some 0x202 := by
  decide

theorem test_sneReg :
    ran { mid with V := regs [(10, 1), (11, 2)] } 0x9AB0 (·.pc) = some 0x204 ∧
    ran { mid with V := regs [(10, 1), (11, 2)] } 0x9AA0 (·.pc) = some 0x202 := by
  decide

theorem test_ldByte :
    ran { mid with V := regs [(1, 0xFF)] } 0x6142 (fun t => (t.reg 1, t.reg 15, t.pc)) =
      some (0x42, 0, 0x202) := by
  decide

-- E1 and L2-ALU `7F02`
theorem test_addByte :
    ran { mid with V := regs [(3, 0xF0), (15, 1)] } 0x7320 (fun t => (t.reg 3, t.reg 15)) = some (0x10, 1) ∧
    ran { mid with V := regs [(15, 0xFF)] } 0x7F02 (·.reg 15) = some 0x01 := by
  decide

theorem test_ldReg :
    ran { mid with V := regs [(1, 1), (2, 0x3C)] } 0x8120 (fun t => (t.reg 1, t.reg 2)) =
      some (0x3C, 0x3C) := by
  decide

theorem test_orReg :
    ran { mid with V := regs [(1, 0xF0), (2, 0x0F), (15, 1)] } 0x8121 (fun t => (t.reg 1, t.reg 15)) =
      some (0xFF, 1) := by
  decide

theorem test_andReg :
    ran { mid with V := regs [(1, 0xF0), (2, 0x3C), (15, 1)] } 0x8122 (fun t => (t.reg 1, t.reg 15)) =
      some (0x30, 1) := by
  decide

theorem test_xorReg :
    ran { mid with V := regs [(1, 0xF0), (2, 0x3C), (15, 1)] } 0x8123 (fun t => (t.reg 1, t.reg 15)) =
      some (0xCC, 1) := by
  decide

theorem test_addReg :
    ran { mid with V := regs [(1, 200), (2, 100)] } 0x8124 (fun t => (t.reg 1, t.reg 15)) = some (44, 1) ∧
    ran { mid with V := regs [(1, 255), (15, 1)] } 0x8124 (fun t => (t.reg 1, t.reg 15)) = some (255, 0) := by
  decide

theorem test_addReg_flag_register :
    ran { mid with V := regs [(15, 0xFF), (1, 2)] } 0x8F14 (·.reg 15) = some 1 ∧
    ran { mid with V := regs [(1, 5), (15, 1)] } 0x81F4 (fun t => (t.reg 1, t.reg 15)) = some (6, 0) := by
  decide

theorem test_subReg :
    ran { mid with V := regs [(1, 7), (2, 5)] } 0x8125 (fun t => (t.reg 1, t.reg 15)) = some (2, 1) ∧
    ran { mid with V := regs [(1, 5), (2, 7)] } 0x8125 (fun t => (t.reg 1, t.reg 15)) = some (254, 0) := by
  decide

theorem test_subReg_equal :
    ran { mid with V := regs [(1, 5), (2, 5)] } 0x8125 (fun t => (t.reg 1, t.reg 15)) = some (0, 1) ∧
    ran { mid with V := regs [(15, 2)] } 0x8FF5 (·.reg 15) = some 1 := by
  decide

theorem test_subnReg :
    ran { mid with V := regs [(1, 5), (2, 7)] } 0x8127 (fun t => (t.reg 1, t.reg 15)) = some (2, 1) ∧
    ran { mid with V := regs [(1, 7), (2, 5)] } 0x8127 (fun t => (t.reg 1, t.reg 15)) = some (254, 0) := by
  decide

theorem test_shr :
    ran { mid with V := regs [(1, 5), (2, 0xFF)] } 0x8126 (fun t => (t.reg 1, t.reg 15)) = some (2, 1) ∧
    ran { mid with V := regs [(15, 3)] } 0x8F06 (·.reg 15) = some 1 := by
  decide

theorem test_shl :
    ran { mid with V := regs [(1, 0x81)] } 0x812E (fun t => (t.reg 1, t.reg 15)) = some (2, 1) ∧
    ran { mid with V := regs [(15, 0x7F)] } 0x8F0E (·.reg 15) = some 0 := by
  decide

theorem test_ldI : ran { mid with I := 0xFFFF } 0xA123 (·.I) = some 0x0123 := by decide

theorem test_addI :
    ran { mid with I := 0x0FFF, V := regs [(0, 2)] } 0xF01E (fun t => (t.I, t.reg 15)) = some (0x1001, 0) ∧
    ran { mid with I := 0xFF80, V := regs [(0, 0xFF)] } 0xF01E (·.I) = some 0x007F := by
  decide

theorem test_ldF :
    ran { mid with V := regs [(1, 0x0F)] } 0xF129 (·.I) = some 0x004B ∧
    ran { mid with V := regs [(1, 0xFF)] } 0xF129 (·.I) = some 0x04FB := by
  decide

-- E6, and the row of L2-MEM that wraps over the top of memory
theorem test_ldB :
    ran { mid with I := 0x300, V := regs [(4, 157)] } 0xF433
      (fun t => (readByte t.mem 0x300, readByte t.mem 0x301, readByte t.mem 0x302, t.I)) =
      some (1, 5, 7, 0x300) := by
  decide

theorem test_ldB_wraps :
    ran { mid with I := 0xFFE, V := regs [(1, 123)] } 0xF133
      (fun t => (readByte t.mem 0xFFE, readByte t.mem 0xFFF, readByte t.mem 0x000, t.I)) =
      some (1, 2, 3, 0xFFE) := by
  decide

theorem test_storeRegs :
    ran { mid with I := 0xFFF, V := regs [(0, 0xAA), (1, 0xBB), (2, 0xCC)] } 0xF155
      (fun t => (readByte t.mem 0xFFF, readByte t.mem 0x000, readByte t.mem 0x001, t.I)) =
      some (0xAA, 0xBB, 0x90, 0xFFF) := by
  decide

theorem test_loadRegs :
    ran { mid with I := 0xFFF, mem := bytes [(0xFFF, 0x11)], V := regs [(2, 0x55)] } 0xF165
      (fun t => (t.reg 0, t.reg 1, t.reg 2, t.I)) = some (0x11, 0xF0, 0x55, 0xFFF) := by
  decide

-- E4 and the collision row of L2-DISP
theorem test_drw_wraps :
    ran { mid with I := 0x300, mem := bytes [(0x300, 0xFF)], V := regs [(1, 63), (15, 1)] } 0xD121
      (fun t => (rowBits t 0, t.reg 15, t.redraw)) = some (0x800000000000007F, 0, true) := by
  decide

theorem test_drw_collides :
    ran { mid with I := 0x301, mem := bytes [(0x301, 0xC0)], FB := (Vector.replicate 32 0).set 0 2 } 0xD121
      (fun t => (rowBits t 0, t.reg 15, t.I)) = some (1, 1, 0x301) := by
  decide

-- L2-IO: `C300` whatever the byte is, and the byte itself under the mask 0xFF
theorem test_rnd :
    ran mid 0xC300 (fun t => (t.draws, t.pc)) = some (1, 0x202) ∧
    ran mid 0xC3FF (fun t => (t.reg 3)) = some (Config.randomByte 0 &&& 0xFF) :=
  ⟨rfl, rfl⟩

theorem test_skp :
    ran { mid with pc := 0x20C, V := regs [(2, 3)], K := 0x0008 } 0xE29E (·.pc) = some 0x210 ∧
    ran { mid with pc := 0x20C, V := regs [(2, 3)], K := 0x0010 } 0xE29E (·.pc) = some 0x20E := by
  decide

theorem test_skp_fault :
    ran { mid with pc := 0x202, V := regs [(0, 0x10)] } 0xE09E (fun t => (t.faultReport, t.pc)) =
      some (some (5, 0x202, some 0xE09E), 0x202) := by
  decide

theorem test_sknp :
    ran { mid with pc := 0x20C, V := regs [(2, 3)] } 0xE2A1 (·.pc) = some 0x210 ∧
    ran { mid with pc := 0x20C, V := regs [(2, 3)], K := 0x0008 } 0xE2A1 (·.pc) = some 0x20E := by
  decide

theorem test_sknp_fault :
    ran { mid with pc := 0x202, V := regs [(0, 0xFF)] } 0xE0A1 (·.faultReport) =
      some (some (5, 0x202, some 0xE0A1)) := by
  decide

theorem test_ldVxDT :
    ran { mid with DT := 0x2A } 0xF107 (fun t => (t.reg 1, t.DT)) = some (0x2A, 0x2A) := by
  decide

theorem test_ldVxK :
    ran { mid with pc := 0x20A, K := 0x0088 } 0xF20A (fun t => (t.reg 2, t.pc, t.blocked)) =
      some (3, 0x20C, false) := by
  decide

theorem test_ldVxK_blocked :
    ran { mid with pc := 0x20A, V := regs [(2, 0x99)] } 0xF20A
      (fun t => (t.reg 2, t.pc, t.blocked, t.redraw, t.left)) = some (0x99, 0x20A, true, false, 0) := by
  decide

-- L2-IO: 0x2A at the end of the Step, 0x29 at the end of a Tick whose last instruction it is
theorem test_ldDTVx :
    ran { mid with V := regs [(1, 0x2A)] } 0xF115 (·.DT) = some 0x2A ∧
    ran { last with V := regs [(1, 0x2A)] } 0xF115 (·.DT) = some 0x29 := by
  decide

theorem test_ldSTVx :
    ran { mid with V := regs [(1, 1)] } 0xF118 (fun t => (t.ST, t.soundOn)) = some (1, true) ∧
    ran { last with V := regs [(1, 1)] } 0xF118 (fun t => (t.ST, t.soundOn)) = some (0, false) := by
  decide

/-! ### The sequencer and the Tick -/

-- L2-TICK: a fault in a Tick decrements no timer, and later Ticks change nothing
theorem test_fault_in_a_tick :
    seen (step { last with DT := 3 }) (fun t => (t.DT, t.left)) = some (3, 0) ∧
    seen (step { last with DT := 3 }) (·.faultReport) = some (some (1, 0x200, some 0)) ∧
    seen (step { mid with halted := true, DT := 3, redrawOut := true }) (fun t => (t.DT, t.redrawOut)) =
      some (3, false) := by
  decide

-- L2-TICK: image `00E0 6005 F018 1206`, INSTR_PER_TICK = 10, one Tick with each value of BREAK_ON_REDRAW
theorem test_tick_runs_ten_steps :
    seen (tick 10 false 0 (State.reset.afterLoad [0x00, 0xE0, 0x60, 0x05, 0xF0, 0x18, 0x12, 0x06]))
      (fun t => (t.pc, t.ST, t.redrawOut)) = some (0x206, 4, true) := by
  decide

theorem test_tick_breaks_on_redraw :
    seen (tick 10 true 0 (State.reset.afterLoad [0x00, 0xE0, 0x60, 0x05, 0xF0, 0x18, 0x12, 0x06]))
      (fun t => (t.pc, t.ST, t.redrawOut)) = some (0x202, 0, true) := by
  decide

-- 20_memory.md R39: the image stands at 0x200, the glyph table below
theorem test_load :
    readByte (State.reset.afterLoad [0x6A, 0x05]).mem 0x200 = 0x6A ∧
    readByte (State.reset.afterLoad [0x6A, 0x05]).mem 0x201 = 0x05 ∧
    readByte (State.reset.afterLoad [0x6A, 0x05]).mem 0x202 = 0 ∧
    readByte (State.reset.afterLoad [0x6A, 0x05]).mem 0x000 = 0xF0 ∧
    readByte (State.reset.afterLoad [0x6A, 0x05]).mem 0x04F = 0x80 := by
  decide

/-! ### Witnesses: states and operands that meet the hypotheses of each statement, clause by clause -/

/-- `mid` with `w` placed where the next step fetches. -/
def placed (s : State) (w : Nat) : State := s.withFetchWord 16 w

theorem witness_DecodeFollowsOpcodeMap :
    (Instr.cls).row.admits 0x00E0 = true ∧ (Instr.shr 0 0).row.admits 0x8AB6 = true ∧
    (Instr.shr 1 2).row.admits 0x8AB6 = true := by decide

theorem witness_IllegalWordsByClass :
    State.reset.pc.toNat ≤ 0xFFE ∧ decode State.reset.fetchWord = .illegal .class0 ∧
    (placed { mid with pc := 0xFFE } 0xF1FF).pc.toNat ≤ 0xFFE ∧
    decode (placed { mid with pc := 0xFFE } 0xF1FF).fetchWord = .illegal .classF := by decide

theorem witness_FetchIsBigEndian : ({ mid with pc := 0xFFE } : State).pc.toNat ≤ 0xFFE := by decide

theorem witness_ReadAfterWrite_clauses :
    readByte (writeByte [] 0xFFF 7) 0xFFF = 7 ∧ readByte (writeByte [] 0xFFF 7) 0x000 = 0xF0 := by decide

-- The two orders of writing two bytes, one of them back to its reset content.
theorem witness_CanonicalMemoryIsUnique :
    (bytes [(0x300, 1), (0x200, 2), (0x000, 0xF0)]).wf = true ∧
    (bytes [(0x000, 5), (0x200, 2), (0x000, 0xF0), (0x300, 1)]).wf = true ∧
    ∀ a : Addr, readByte (bytes [(0x300, 1), (0x200, 2), (0x000, 0xF0)]) a =
      readByte (bytes [(0x000, 5), (0x200, 2), (0x000, 0xF0), (0x300, 1)]) a := by
  have h : bytes [(0x300, 1), (0x200, 2), (0x000, 0xF0)] =
      bytes [(0x000, 5), (0x200, 2), (0x000, 0xF0), (0x300, 1)] := by decide
  exact ⟨by decide, by decide, fun a => by rw [h]⟩

-- The last pair of a sixteen-register store, and a pair that ends at the top of memory.
theorem witness_FetchSeesTheStore :
    (∃ t, exec (.storeRegs 15) { mid with I := 0x300 } = .next t) ∧ 14 + 1 ≤ (15 : Nibble).toNat ∧
    (effAddr 0x300 14).toNat ≤ 0xFFE ∧ 0 + 1 ≤ (1 : Nibble).toNat ∧ (effAddr 0xFFE 0).toNat ≤ 0xFFE :=
  ⟨⟨_, rfl⟩, by decide, by decide, by decide, by decide⟩

theorem witness_StepSequence :
    0xFFE < ({ mid with pc := 0xFFF } : State).pc.toNat ∧
    ((placed { mid with pc := 0xFFE } 0x0000).pc.toNat ≤ 0xFFE ∧
      decode (placed { mid with pc := 0xFFE } 0x0000).fetchWord = .illegal .class0) ∧
    ((placed { mid with pc := 0xFFE } 0x6142).pc.toNat ≤ 0xFFE ∧
      decode (placed { mid with pc := 0xFFE } 0x6142).fetchWord = .instr (.ldByte 1 0x42)) := by decide

-- Inside a Tick, and between two Ticks.
theorem witness_StepRunsDecodedInstruction :
    ((placed mid 0x6142).halted = false ∧ (placed mid 0x6142).left = 2 ∧ (placed mid 0x6142).pc.toNat ≤ 0xFFE ∧
      decodeBytes [readByte (placed mid 0x6142).mem 0x200, readByte (placed mid 0x6142).mem 0x201, 0xFF] =
        .instr (.ldByte 1 0x42) [0xFF]) ∧
    ((placed State.reset 0xD125).halted = false ∧ (placed State.reset 0xD125).left = 0 ∧
      decodeBytes [readByte (placed State.reset 0xD125).mem 0x200, readByte (placed State.reset 0xD125).mem 0x201]
        = .instr (.drw 1 2 5) []) := by decide

theorem witness_PlacedWordIsFetched :
    (0xFFFF < 65536) ∧ decodeTableWord 16 0xF165 = some (.loadRegs 1) ∧
    (State.withFetchWord { mid with halted := true, pc := 0xFFF } 16 0xF165).pc = 0x200 := by decide

theorem witness_InvalidOpcodeRaised :
    (State.reset.halted = false ∧ State.reset.fault = none ∧ State.reset.pc.toNat ≤ 0xFFE ∧
      wordWellFormed State.reset.fetchWord = false) ∧
    ((placed mid 0x00EE).halted = false ∧ (placed mid 0x00EE).fault = none ∧
      wordWellFormed (placed mid 0x00EE).fetchWord = true ∧
      seen (step (placed mid 0x00EE)) (fun t => t.fault.map (·.kind)) = some (some .stackUnderflow)) := by decide

theorem witness_FetchOutOfRangeRaised :
    ({ mid with pc := 0xFFF } : State).halted = false ∧ 0xFFE < ({ mid with pc := 0xFFF } : State).pc.toNat := by
  decide

theorem witness_StackFaultsRaised :
    ({ mid with sp := 16 } : State).sp = 16 ∧ mid.sp = 0 := by decide

theorem witness_KeyIndexFaultRaised :
    15 < (State.reg { mid with V := regs [(15, 16)] } 15).toNat := by decide

theorem witness_FaultsArePrecise :
    ({ mid with pc := 0xFFF } : State).halted = false ∧
    seen (coreStep { mid with pc := 0xFFF }) (·.halted) = some true ∧
    seen (coreStep (placed { mid with pc := 0xFFE } 0x00EE)) (·.halted) = some true ∧
    seen (coreStep (placed mid 0x8008)) (·.halted) = some true := by decide

theorem witness_HaltedIsFrozen : ({ mid with halted := true } : State).halted = true := rfl

theorem witness_LatchIsReplacedOncePerTick :
    (mid.halted = false ∧ ∃ t, step mid = .next t) ∧
    (State.reset.halted = false ∧ ∃ t, step State.reset = .next t) :=
  ⟨⟨rfl, _, rfl⟩, rfl, _, rfl⟩

-- The last Step of a Tick, a Step that is not the last, a Step that faults, a halted Tick.
theorem witness_TimersCountDownOncePerTick :
    ((∃ u t, coreStep (placed { last with DT := 2, ST := 0 } 0x6142).beginTick = .next u ∧
        step (placed { last with DT := 2, ST := 0 } 0x6142) = .next t ∧ u.halted = false ∧ t.left = 0)) ∧
    (seen (step (placed mid 0x6142)) (fun t => (t.halted, t.left)) = some (false, 1)) ∧
    (seen (coreStep (placed mid 0x00EE).beginTick) (·.halted) = some true) ∧
    (∃ t, step { mid with halted := true } = .next t) :=
  ⟨⟨_, _, rfl, rfl, rfl, rfl⟩, by decide, by decide, _, rfl⟩

theorem witness_TickReturns :
    (placed mid 0x6142).halted = false ∧ (∃ u, coreStep (placed mid 0x6142).beginTick = .next u) ∧
    ∃ t, step (placed mid 0x6142) = .next t :=
  ⟨rfl, ⟨_, rfl⟩, _, rfl⟩

-- A jump to itself, from between two Ticks, runs the Tick whatever `INSTR_PER_TICK` is; and a Tick that faults.
theorem tickLoop_selfJump (b : Bool) (n : Nat) (s : State) (h : coreStep s = .next s) (hh : s.halted = false)
    (hb : s.blocked = false) (hr : s.redraw = false) : tickLoop b n s = .next s.decrementTimers := by
  have hs : s.noteRedraw = s := by
    cases s
    simp_all [State.noteRedraw]
  induction n with
  | zero => rfl
  | succ n ih => simp only [tickLoop, h, hh, hb, hr, hs, Bool.false_eq_true, if_false, Bool.false_or,
      Bool.false_and, ih]

theorem witness_StepsRefineTheTick :
    ((placed { State.reset with DT := 2 } 0x1200).halted = false ∧
      (placed { State.reset with DT := 2 } 0x1200).left = 0 ∧
      ∃ t, tick Config.instrPerTick Config.breakOnRedraw (Config.keys 0)
        (placed { State.reset with DT := 2 } 0x1200) = .next t ∧ t.DT = 1) ∧
    (∃ t, tick Config.instrPerTick Config.breakOnRedraw (Config.keys 0) State.reset = .next t ∧
      t.halted = true) :=
  ⟨⟨rfl, rfl, _, tickLoop_selfJump _ _ _ rfl rfl rfl rfl, by decide⟩, _, rfl, rfl⟩

theorem witness_RetReturns :
    (0 < ({ mid with sp := 1 } : State).sp.toNat ∧ ({ mid with sp := 1 } : State).sp.toNat ≤ 16) ∧
    (0 < ({ mid with sp := 16 } : State).sp.toNat ∧ ({ mid with sp := 16 } : State).sp.toNat ≤ 16) := by decide

theorem witness_CallPushes :
    mid.sp.toNat < 16 ∧ ({ mid with sp := 15 } : State).sp.toNat < 16 := by decide

theorem witness_CallThenRet :
    ({ mid with sp := 15 } : State).sp.toNat < 16 ∧ ∃ t u : State,
      exec (.call 0xABC) { mid with sp := 15 } = .next t ∧ u.sp = t.sp ∧ u.stack[15]? = t.stack[15]? :=
  ⟨by decide, _, _, rfl, rfl, rfl⟩

theorem witness_result_clauses : (14 : Nibble) ≠ 15 ∧ (0 : Nibble) ≠ 15 ∧ (1 : Nibble) ≠ 0 := by decide

theorem witness_FlagIsWrittenLast :
    (∃ t, exec (.addReg 15 1) mid = .next t) ∧ (∃ t, exec (.subReg 15 15) mid = .next t) ∧
    (∃ t, exec (.subnReg 15 1) mid = .next t) ∧ (∃ t, exec (.shr 15 0) mid = .next t) ∧
    (∃ t, exec (.shl 15 0) mid = .next t) :=
  ⟨⟨_, rfl⟩, ⟨_, rfl⟩, ⟨_, rfl⟩, ⟨_, rfl⟩, _, rfl⟩

theorem witness_DifferenceIsRecovered :
    (14 : Nibble) ≠ 15 ∧ (∃ t, exec (.subReg 14 15) mid = .next t) ∧ (∃ t, exec (.subnReg 14 15) mid = .next t) :=
  ⟨by decide, ⟨_, rfl⟩, _, rfl⟩

theorem witness_StoreDecimalDigits :
    (0x001 : Addr) ≠ effAddr 0xFFE 0 ∧ (0x001 : Addr) ≠ effAddr 0xFFE 1 ∧ (0x001 : Addr) ≠ effAddr 0xFFE 2 := by
  decide

theorem witness_StoreRegisters :
    (15 : Nibble).toNat ≤ (15 : Nibble).toNat ∧ ∀ k, k ≤ (15 : Nibble).toNat → (0x00F : Addr) ≠ effAddr 0xFFF k := by
  decide

theorem witness_LoadRegisters : (0 : Nibble).toNat ≤ (0 : Nibble).toNat ∧ ¬ (1 : Nibble).toNat ≤ (0 : Nibble).toNat := by
  decide

-- A covered pixel at the left edge of a wrapped sprite, and one that is not covered.
theorem witness_DrawXorsCoveredPixels :
    spriteCovers (fun _ => 0x80) 63 31 1 31 63 ∧ spriteCovers (fun _ => 0x01) 63 31 2 0 6 ∧
    ¬ spriteCovers (fun _ => 0xFF) 0 0 0 0 0 :=
  ⟨⟨0, 0, by decide⟩, ⟨1, 7, by decide⟩, by rintro ⟨r, c, h, _⟩; omega⟩

theorem witness_DrawTwiceRestores :
    ∃ t u, exec (.drw 0 1 5) mid = .next t ∧ t.reg 0 = mid.reg 0 ∧ t.reg 1 = mid.reg 1 ∧
      exec (.drw 0 1 5) t = .next u :=
  ⟨_, _, rfl, by decide, by decide, rfl⟩

-- `x = 15`: the first draw collides, and `VF` was 1 already.
theorem witness_DrawTwiceRestores_flag :
    ∃ t u, exec (.drw 15 1 1) { mid with V := regs [(15, 1)], FB := (Vector.replicate 32 0).set 0 2 } = .next t ∧
      t.reg 15 = 1 ∧ t.reg 1 = 0 ∧ exec (.drw 15 1 1) t = .next u :=
  ⟨_, _, rfl, by decide, by decide, rfl⟩

theorem witness_RandomIsMasked : (0x0F : Byte).getLsbD 4 = false ∧ (1 : Nibble) ≠ 0 := by decide

theorem witness_KeySkips :
    (State.reg { mid with V := regs [(2, 15)] } 2).toNat ≤ 15 ∧ (mid.reg 2).toNat ≤ 15 := by decide

-- The last line alone, the first of several, none.
theorem witness_KeyWait :
    ((0x8000 : BitVec 16).getLsbD 15 = true ∧ ∀ j, j < 15 → (0x8000 : BitVec 16).getLsbD j = false) ∧
    ((0x0089 : BitVec 16).getLsbD 0 = true) ∧
    (∀ k, k < 16 → (0 : BitVec 16).getLsbD k = false) := by decide

-- A next state of an instruction that faults and of one that does not.
theorem witness_NextPcTable :
    mid.halted = false ∧ seen (exec .ret mid) (·.halted) = some true ∧
    seen (exec (.skp 0) mid) (·.halted) = some false := by decide

theorem witness_RegisterFrame :
    (∃ t, exec (.addReg 3 4) mid = .next t) ∧ writesReg 4 (.addReg 3 4) = false ∧
    (∃ t, exec (.loadRegs 14) mid = .next t) ∧ writesReg 15 (.loadRegs 14) = false ∧
    (∃ t, exec (.skp 0) mid = .next t) ∧ writesReg 0 (.skp 0) = false :=
  ⟨⟨_, rfl⟩, rfl, ⟨_, rfl⟩, rfl, ⟨_, rfl⟩, rfl⟩

theorem witness_FlagWriters :
    (∃ t, exec (.drw 15 15 0) mid = .next t) ∧ (∃ t, exec (.addByte 14 0xFF) mid = .next t) ∧
    (∀ x y n kk, Instr.addByte 14 0xFF ≠ .addReg x y ∧ Instr.addByte 14 0xFF ≠ .drw x y n ∧
      Instr.addByte 14 0xFF ≠ .addByte 15 kk) :=
  ⟨⟨_, rfl⟩, ⟨_, rfl⟩, by simp⟩

theorem witness_MemoryFrame :
    (∃ t, exec (.ldB 1) { mid with I := 0xFFE } = .next t) ∧
    (∀ k, k < storedBytes (.ldB 1) → (0x001 : Addr) ≠ effAddr 0xFFE k) ∧
    (∃ t, exec (.jp 0) mid = .next t) ∧ (∀ k, k < storedBytes (.jp 0) → (0x001 : Addr) ≠ effAddr 0xFFE k) :=
  ⟨⟨_, rfl⟩, by decide, ⟨_, rfl⟩, by decide⟩

theorem witness_SpecialStateWriters :
    (∃ t, exec (.orReg 1 2) mid = .next t) ∧ (∀ nnn x, Instr.orReg 1 2 ≠ .ldI nnn ∧ Instr.orReg 1 2 ≠ .addI x ∧
      Instr.orReg 1 2 ≠ .ldF x) ∧ (∀ nnn, Instr.orReg 1 2 ≠ .call nnn ∧ Instr.orReg 1 2 ≠ .ret) ∧
    (∀ x y n, Instr.orReg 1 2 ≠ .cls ∧ Instr.orReg 1 2 ≠ .drw x y n) :=
  ⟨⟨_, rfl⟩, by simp, by simp, by simp⟩

/-- A state at every bound of the invariant: a full stack of the last fetchable address, the largest `pc`, a
nonempty memory, the last Step of a Tick. -/
def bound : State :=
  { last with sp := 16, stack := Vector.replicate 16 0xFFE, pc := 0x10FE, mem := bytes [(0xFFF, 1), (0x000, 0)] }

theorem bound_inv : bound.Inv where
  spLegal := by decide
  entriesLegal := by decide
  pcLegal := by decide
  memCanonical := by decide
  faultIffHalted := rfl
  budgetLegal := Nat.succ_le_succ (Nat.zero_le _)
  haltedBetweenTicks := by decide

theorem witness_InvariantKeptByStep :
    bound.Inv ∧ (∃ t, step bound = .next t) ∧ (∃ t, step { bound with pc := 0xFFE } = .next t) :=
  ⟨bound_inv, ⟨_, rfl⟩, _, rfl⟩

theorem witness_StepNeverStops : bound.Inv := bound_inv

/-- An image of `n` bytes. -/
def image (n : Nat) : List Byte := List.replicate n 0x12

theorem image_length (n : Nat) : (image n).length = n := List.length_replicate

theorem witness_LoadResets : (image 3584).length ≤ 3584 ∧ (image 0).length ≤ 3584 :=
  ⟨(image_length _).le, by decide⟩

theorem witness_LoadPlacesImage :
    (image 3584).length ≤ 3584 ∧ (image 3584)[3583]? = some 0x12 ∧ 3584 < (image 3585).length :=
  ⟨(image_length _).le, List.getElem?_replicate_of_lt (by decide), (image_length 3585).symm.le⟩

theorem witness_LoadAgain : 3584 < (image 3585).length ∧ (image 3584).length ≤ 3584 :=
  ⟨(image_length 3585).symm.le, (image_length _).le⟩

end Sys2Proof.Tests
end

section
/-! PROOFS. The next `pc` of every instruction (spec/10_state.md R18). -/

namespace Sys2Proof.Machine

/-! ### An answer that did not halt the block took no faulting branch -/

theorem next_of_ite_raise {c : Prop} [Decidable c] {s t : State} {k : FaultKind} {w : Option Word} {r : Result}
    (h : (if c then .next (s.raise k w) else r) = .next t) (ht : t.halted = false) : r = .next t := by
  split at h
  · injection h with h
    simp [← h] at ht
  · exact h

theorem next_of_ite_fault {c : Prop} [Decidable c] {t : State} {f : Fault} {r : Result}
    (h : (if c then .fault f else r) = .next t) : r = .next t := by
  split at h
  · cases h
  · exact h

/-! ### The two conditional rows of the table -/

theorem State.skipIf_pc_of_iff (s : State) {c : Bool} {p : Prop} [Decidable p] (h : c = true ↔ p) :
    (s.skipIf c).pc = if p then s.pc + 4 else s.pc + 2 := by
  simp [h]

theorem firstPressed_isSome_iff (K : BitVec 16) : (firstPressed K).isSome = true ↔ K ≠ 0 := by
  rw [Option.isSome_iff_ne_none, not_iff_not]
  constructor
  · intro h
    simp only [firstPressed, List.find?_eq_none, List.mem_range, keyPressed, Bool.not_eq_true] at h
    exact BitVec.eq_of_getLsbD_eq fun i hi => by simp [h i hi]
  · rintro rfl
    exact firstPressed_eq_none fun _ _ => BitVec.getLsbD_zero

/-- An instruction that does not halt the block leaves `pc` as its row says: the four that can fault took their
other branch, the six skips and the key wait choose between two rows, every other has one row. -/
theorem exec_pc {i : Instr} {s t : State} (h : exec i s = .next t) (ht : t.halted = false) :
    t.pc = pcTable s i := by
  cases i
  case ret | call =>
    injection next_of_ite_fault (next_of_ite_raise h ht) with h
    exact h ▸ rfl
  case skp =>
    injection next_of_ite_raise h ht with h
    exact h ▸ s.skipIf_pc_of_iff Iff.rfl
  case sknp =>
    injection next_of_ite_raise h ht with h
    exact h ▸ s.skipIf_pc_of_iff (Bool.not_eq_true' _).to_iff
  case seByte | seReg =>
    injection h with h
    exact h ▸ s.skipIf_pc_of_iff beq_iff_eq
  case sneByte | sneReg =>
    injection h with h
    exact h ▸ s.skipIf_pc_of_iff bne_iff_ne
  case ldVxK =>
    injection h with h
    subst h
    simp [pcTable, firstPressed_isSome_iff]
  all_goals
    injection h with h
    exact h ▸ rfl

/-- Settles O50: a fault keeps `pc`, and without one the block is still running, so the row of `exec_pc` applies. -/
theorem nextPcTable : Obligations.NextPcTable := by
  intro i s t hs h
  obtain ⟨k, -, -, rfl⟩ | ⟨-, hhalted, -⟩ := exec_keeps i s t h
  · simp
  · have ht : t.halted = false := hhalted.trans hs
    simp [ht, exec_pc h ht]

end Sys2Proof.Machine
end

section
/-! PROOFS. Memory: a write and what it leaves alone (spec/20_memory.md R44), and where Load places the image
(R39). -/

namespace Sys2Proof.Machine

/-- Settles O6: the two laws of a write, one per branch. -/
theorem readAfterWrite : Obligations.ReadAfterWrite := by
  intro m a b v
  split
  case isTrue h => rw [h, readByte_writeByte_self]
  case isFalse h => exact readByte_writeByte_ne m v h

/-! ### Where Load places the image -/

theorem load_of_length_le (s : State) {image : List Byte} (h : image.length ≤ 3584) :
    load image s =
      .loaded { State.reset with mem := imageMemory image, ticks := s.ticks, draws := s.draws } :=
  if_neg (Nat.not_lt.mpr h)

theorem load_of_lt_length (s : State) {image : List Byte} (h : 3584 < image.length) :
    load image s = .imageTooLarge :=
  if_pos h

/-- Up to the largest image the addresses from 0x200 do not wrap, so no two bytes share one. -/
theorem imageAddr_injective {i j : Nat} (hi : i < 3584) (hj : j < 3584)
    (h : BitVec.ofNat 12 (0x200 + i) = BitVec.ofNat 12 (0x200 + j)) : i = j := by
  have hn := congrArg BitVec.toNat h
  simp only [BitVec.toNat_ofNat] at hn
  omega

/-- An image that fits has each of its bytes at 0x200 plus the byte's index. -/
theorem readByte_imageMemory {image : List Byte} (hlen : image.length ≤ 3584) {j : Nat}
    (hj : j < image.length) : readByte (imageMemory image) (BitVec.ofNat 12 (0x200 + j)) = image[j] := by
  have hinside := readByte_writeBytes_inside [] (fun i => BitVec.ofNat 12 (0x200 + i))
    (fun i => image.getD i 0) hj
    fun _ _ hi hk => imageAddr_injective (hi.trans_le hlen) (hk.trans_le hlen)
  exact hinside.trans (List.getD_eq_getElem image 0 hj)

/-- Settles O59: an image that fits is read back from the memory Load leaves, a longer one takes the failing
branch. -/
theorem loadPlacesImage : Obligations.LoadPlacesImage := by
  refine ⟨fun s image hlen => ⟨_, load_of_length_le s hlen, fun j b hb => ?_⟩,
    fun s _ hlen => load_of_lt_length s hlen⟩
  obtain ⟨hj, rfl⟩ := List.getElem?_eq_some_iff.mp hb
  exact readByte_imageMemory hlen hj

end Sys2Proof.Machine
end

section
/-! PROOFS. The decoder and the opcode map (spec/30_encoding.md R50 to R54). Both sides meet in the encoder: a word
decodes to an instruction exactly when it is that instruction's word, and so does an instruction's row. -/

namespace Sys2Proof.Machine

/-! ### When a word is a given word of a format -/

theorem encodeNNN_eq_iff {w : Word} {c : Nibble} {nnn : Addr} :
    encodeNNN c nnn = w ↔ fieldClass w = c ∧ fieldNNN w = nnn := by
  constructor
  · rintro rfl
    exact ⟨fieldClass_encodeNNN c nnn, fieldNNN_encodeNNN c nnn⟩
  · rintro ⟨rfl, rfl⟩
    exact (word_eq_encodeNNN w).symm

theorem encodeXKK_eq_iff {w : Word} {c x : Nibble} {kk : Byte} :
    encodeXKK c x kk = w ↔ fieldClass w = c ∧ fieldX w = x ∧ fieldKK w = kk := by
  constructor
  · rintro rfl
    exact ⟨fieldClass_encodeXKK c x kk, fieldX_encodeXKK c x kk, fieldKK_encodeXKK c x kk⟩
  · rintro ⟨rfl, rfl, rfl⟩
    exact (word_eq_encodeXKK w).symm

theorem encodeXYN_eq_iff {w : Word} {c x y n : Nibble} :
    encodeXYN c x y n = w ↔ fieldClass w = c ∧ fieldX w = x ∧ fieldY w = y ∧ fieldN w = n := by
  constructor
  · rintro rfl
    exact ⟨fieldClass_encodeXYN c x y n, fieldX_encodeXYN c x y n, fieldY_encodeXYN c x y n,
      fieldN_encodeXYN c x y n⟩
  · rintro ⟨rfl, rfl, rfl, rfl⟩
    exact (word_eq_encodeXYN w).symm

/-! ### What the masks of R53 test -/

theorem and_classMask (w : Word) : w &&& 0xF000 = encodeNNN (fieldClass w) 0 := by
  conv_lhs => rw [word_eq_encodeNNN w, mask_encodeNNN]

theorem and_functionNibbleMask (w : Word) : w &&& 0xF00F = encodeXYN (fieldClass w) 0 0 (fieldN w) := by
  conv_lhs => rw [word_eq_encodeXYN w, mask_function_nibble]

theorem and_functionByteMask (w : Word) : w &&& 0xF0FF = encodeXKK (fieldClass w) 0 (fieldKK w) := by
  conv_lhs => rw [word_eq_encodeXKK w, mask_function_byte]

theorem and_classMask_eq_iff {w : Word} {c : Nibble} : w &&& 0xF000 = encodeNNN c 0 ↔ fieldClass w = c := by
  rw [and_classMask, encodeNNN_eq_iff, fieldClass_encodeNNN, fieldNNN_encodeNNN, eq_comm]
  exact and_iff_left rfl

theorem and_functionNibbleMask_eq_iff {w : Word} {c n : Nibble} :
    w &&& 0xF00F = encodeXYN c 0 0 n ↔ fieldClass w = c ∧ fieldN w = n := by
  rw [and_functionNibbleMask, encodeXYN_eq_iff]
  simp only [fieldClass_encodeXYN, fieldX_encodeXYN, fieldY_encodeXYN, fieldN_encodeXYN, true_and, eq_comm]

theorem and_functionByteMask_eq_iff {w : Word} {c : Nibble} {kk : Byte} :
    w &&& 0xF0FF = encodeXKK c 0 kk ↔ fieldClass w = c ∧ fieldKK w = kk := by
  rw [and_functionByteMask, encodeXKK_eq_iff]
  simp only [fieldClass_encodeXKK, fieldX_encodeXKK, fieldKK_encodeXKK, true_and, eq_comm]

/-! ### A word spells an instruction exactly when it is the instruction's word, format by format -/

theorem spelledBy_iff {w : Word} {i : Instr} :
    i.spelledBy w = true ↔ w &&& i.row.mask = i.row.bits ∧ i.fieldsIn w = true := by
  rw [Instr.spelledBy, Bool.and_eq_true, Row.admits, beq_iff_eq]

theorem spelledBy_iff_of_nnn {w : Word} {i : Instr} {c : Nibble} {nnn : Addr}
    (he : encode i = encodeNNN c nnn) (hm : i.row.mask = 0xF000) (hb : i.row.bits = encodeNNN c 0)
    (hf : i.fieldsIn w = (fieldNNN w == nnn)) : i.spelledBy w = true ↔ encode i = w := by
  rw [spelledBy_iff, hm, hb, hf, he, and_classMask_eq_iff, encodeNNN_eq_iff, beq_iff_eq]

theorem spelledBy_iff_of_xkk {w : Word} {i : Instr} {c x : Nibble} {kk : Byte}
    (he : encode i = encodeXKK c x kk) (hm : i.row.mask = 0xF000) (hb : i.row.bits = encodeNNN c 0)
    (hf : i.fieldsIn w = (fieldX w == x && fieldKK w == kk)) : i.spelledBy w = true ↔ encode i = w := by
  rw [spelledBy_iff, hm, hb, hf, he, and_classMask_eq_iff, encodeXKK_eq_iff, Bool.and_eq_true, beq_iff_eq,
    beq_iff_eq]

theorem spelledBy_iff_of_xy {w : Word} {i : Instr} {c x y n : Nibble}
    (he : encode i = encodeXYN c x y n) (hm : i.row.mask = 0xF00F) (hb : i.row.bits = encodeXYN c 0 0 n)
    (hf : i.fieldsIn w = (fieldX w == x && fieldY w == y)) : i.spelledBy w = true ↔ encode i = w := by
  rw [spelledBy_iff, hm, hb, hf, he, and_functionNibbleMask_eq_iff, encodeXYN_eq_iff, Bool.and_eq_true,
    beq_iff_eq, beq_iff_eq]
  tauto

theorem spelledBy_iff_of_x {w : Word} {i : Instr} {c x : Nibble} {kk : Byte}
    (he : encode i = encodeXKK c x kk) (hm : i.row.mask = 0xF0FF) (hb : i.row.bits = encodeXKK c 0 kk)
    (hf : i.fieldsIn w = (fieldX w == x)) : i.spelledBy w = true ↔ encode i = w := by
  rw [spelledBy_iff, hm, hb, hf, he, and_functionByteMask_eq_iff, encodeXKK_eq_iff, beq_iff_eq]
  tauto

/-- A form without operands, whose mask keeps every bit. -/
theorem spelledBy_iff_of_fixed {w : Word} {i : Instr} (hm : i.row.mask = 0xFFFF)
    (hb : i.row.bits = encode i) (hf : i.fieldsIn w = true) : i.spelledBy w = true ↔ encode i = w := by
  have hw : w &&& 0xFFFF = w := BitVec.and_allOnes
  rw [spelledBy_iff, hm, hb, hw, eq_comm]
  exact and_iff_left hf

theorem spelledBy_iff_of_xyn {w : Word} {i : Instr} {c x y n : Nibble}
    (he : encode i = encodeXYN c x y n) (hm : i.row.mask = 0xF000) (hb : i.row.bits = encodeNNN c 0)
    (hf : i.fieldsIn w = (fieldX w == x && fieldY w == y && fieldN w == n)) :
    i.spelledBy w = true ↔ encode i = w := by
  rw [spelledBy_iff, hm, hb, hf, he, and_classMask_eq_iff, encodeXYN_eq_iff, Bool.and_eq_true,
    Bool.and_eq_true, beq_iff_eq, beq_iff_eq, beq_iff_eq, and_assoc]

/-- The opcode map and the encoder agree: match, mask and fields fix every bit of the word. -/
theorem spelledBy_iff_encode_eq {w : Word} {i : Instr} : i.spelledBy w = true ↔ encode i = w := by
  cases i
  case cls | ret => exact spelledBy_iff_of_fixed rfl rfl rfl
  case drw => exact spelledBy_iff_of_xyn rfl rfl rfl rfl
  case jp | call | ldI | jpV0 => exact spelledBy_iff_of_nnn rfl rfl rfl rfl
  case seByte | sneByte | ldByte | addByte | rnd => exact spelledBy_iff_of_xkk rfl rfl rfl rfl
  case skp | sknp | ldVxDT | ldVxK | ldDTVx | ldSTVx | addI | ldF | ldB | storeRegs | loadRegs =>
    exact spelledBy_iff_of_x rfl rfl rfl rfl
  all_goals exact spelledBy_iff_of_xy rfl rfl rfl rfl

/-! ### The decoder inverts the encoder -/

theorem decode_encode (i : Instr) : decode (encode i) = .instr i := by
  cases i
  case cls | ret => rfl
  case jp | call | ldI | jpV0 => simp [encode, decode, fieldClass_encodeNNN, fieldNNN_encodeNNN]
  case seByte | sneByte | ldByte | addByte | rnd =>
    simp [encode, decode, fieldClass_encodeXKK, fieldX_encodeXKK, fieldKK_encodeXKK]
  case skp | sknp =>
    simp [encode, decode, decodeClassE, fieldClass_encodeXKK, fieldX_encodeXKK, fieldKK_encodeXKK]
  case ldVxDT | ldVxK | ldDTVx | ldSTVx | addI | ldF | ldB | storeRegs | loadRegs =>
    simp [encode, decode, decodeClassF, fieldClass_encodeXKK, fieldX_encodeXKK, fieldKK_encodeXKK]
  all_goals
    simp [encode, decode, decodeClass8, fieldClass_encodeXYN, fieldX_encodeXYN, fieldY_encodeXYN,
      fieldN_encodeXYN]

theorem encode_eq_of_decodeClass0 {w : Word} {i : Instr} (h : decodeClass0 w = .instr i) : encode i = w := by
  unfold decodeClass0 at h
  split_ifs at h with hw hw <;> cases h <;> exact hw.symm

theorem encode_eq_of_decodeClass8 {x y n : Nibble} {i : Instr} (h : decodeClass8 x y n = .instr i) :
    encode i = encodeXYN 0x8 x y n := by
  unfold decodeClass8 at h
  split_ifs at h with hn hn hn hn hn hn hn hn hn <;> cases h <;> exact hn ▸ rfl

theorem encode_eq_of_decodeClassE {x : Nibble} {kk : Byte} {i : Instr} (h : decodeClassE x kk = .instr i) :
    encode i = encodeXKK 0xE x kk := by
  unfold decodeClassE at h
  split_ifs at h with hk hk <;> cases h <;> exact hk ▸ rfl

theorem encode_eq_of_decodeClassF {x : Nibble} {kk : Byte} {i : Instr} (h : decodeClassF x kk = .instr i) :
    encode i = encodeXKK 0xF x kk := by
  unfold decodeClassF at h
  split_ifs at h with hk hk hk hk hk hk hk hk hk <;> cases h <;> exact hk ▸ rfl

/-- Each branch of the decoder reads the fields of one format in one class, and the fields of a format are the
whole word. Case `h_k` is class `k - 1`. -/
theorem encode_eq_of_decode {w : Word} {i : Instr} (h : decode w = .instr i) : encode i = w := by
  unfold decode at h
  split at h
  case h_1 => exact encode_eq_of_decodeClass0 h
  case h_9 hc => exact (encode_eq_of_decodeClass8 h).trans (encodeXYN_eq_iff.mpr ⟨word_ext_nat hc, rfl, rfl, rfl⟩)
  case h_15 hc => exact (encode_eq_of_decodeClassE h).trans (encodeXKK_eq_iff.mpr ⟨word_ext_nat hc, rfl, rfl⟩)
  case h_16 =>
    have hc : (fieldClass w).toNat = 0xF := by
      have := (fieldClass w).isLt
      simp only [imp_false] at *
      omega
    exact (encode_eq_of_decodeClassF h).trans (encodeXKK_eq_iff.mpr ⟨word_ext_nat hc, rfl, rfl⟩)
  case h_6 hc | h_10 hc =>
    split_ifs at h with hn
    cases h
    exact encodeXYN_eq_iff.mpr ⟨word_ext_nat hc, rfl, rfl, hn⟩
  case h_14 hc =>
    cases h
    exact encodeXYN_eq_iff.mpr ⟨word_ext_nat hc, rfl, rfl, rfl⟩
  case h_2 hc | h_3 hc | h_11 hc | h_12 hc =>
    cases h
    exact encodeNNN_eq_iff.mpr ⟨word_ext_nat hc, rfl⟩
  case h_4 hc | h_5 hc | h_7 hc | h_8 hc | h_13 hc =>
    cases h
    exact encodeXKK_eq_iff.mpr ⟨word_ext_nat hc, rfl, rfl⟩

theorem decode_eq_instr_iff {w : Word} {i : Instr} : decode w = .instr i ↔ encode i = w :=
  ⟨encode_eq_of_decode, fun h => h ▸ decode_encode i⟩

/-! ### The rows of the map are disjoint -/

/-- A row does not depend on the operands, so looking it up computes, form by form. -/
theorem row_mem_opcodeMap (i : Instr) : i.row ∈ opcodeMap := by
  cases i <;> exact of_decide_eq_true rfl

/-- Two rows share a word only when their matches agree on the bits that both masks keep. -/
theorem bits_and_mask_eq_of_admits {r q : Row} {w : Word} (hr : r.admits w = true) (hq : q.admits w = true) :
    r.bits &&& q.mask = q.bits &&& r.mask := by
  rw [Row.admits, beq_iff_eq] at hr hq
  rw [← hr, ← hq, BitVec.and_assoc, BitVec.and_assoc, BitVec.and_comm r.mask]

theorem opcodeMap_pairwise_disjoint :
    opcodeMap.Pairwise fun r q => r.bits &&& q.mask ≠ q.bits &&& r.mask := by
  decide

theorem row_eq_of_admits {r q : Row} {w : Word} (hrm : r ∈ opcodeMap) (hqm : q ∈ opcodeMap)
    (hr : r.admits w = true) (hq : q.admits w = true) : r = q := by
  by_contra hne
  have : Std.Symm fun r q : Row => r.bits &&& q.mask ≠ q.bits &&& r.mask := ⟨fun _ _ => Ne.symm⟩
  exact opcodeMap_pairwise_disjoint.forall hrm hqm hne (bits_and_mask_eq_of_admits hr hq)

/-- Settles O2: decoding and spelling are both inverse to encoding, and the rows are pairwise disjoint. -/
theorem decodeFollowsOpcodeMap : Obligations.DecodeFollowsOpcodeMap :=
  ⟨fun _ _ => decode_eq_instr_iff.trans spelledBy_iff_encode_eq.symm,
    fun _ i j => row_eq_of_admits (row_mem_opcodeMap i) (row_mem_opcodeMap j),
    row_mem_opcodeMap, rfl⟩

/-! ### The fetched word -/

theorem wordOfBytes_toNat (hi lo : Byte) : (wordOfBytes hi lo).toNat = hi.toNat * 256 + lo.toNat := by
  rw [wordOfBytes, BitVec.toNat_append, ← Nat.shiftLeft_add_eq_or_of_lt lo.isLt, Nat.shiftLeft_eq]

theorem setWidth_add_one (pc : Word) : (pc + 1).setWidth 12 = BitVec.ofNat 12 (pc.toNat + 1) := by
  bv_omega

/-- Settles O5: the address of the second byte is `pc + 1` on the 12 bits of an address. -/
theorem fetchIsBigEndian : Obligations.FetchIsBigEndian := by
  refine ⟨fun s _ => ?_, rfl, decode_encode (.ldByte 0xA 5)⟩
  rw [State.fetchWord, wordOfBytes_toNat, setWidth_add_one, BitVec.ofNat_toNat]

end Sys2Proof.Machine
end

section
/-! PROOFS. Jumps, and the four skips by a comparison (spec/40_flow.md R65, R67 to R71). -/

namespace Sys2Proof.Machine

/-! ### Jump targets -/

@[simp] theorem addrOperand_toNat (nnn : Addr) : (addrOperand nnn).toNat = nnn.toNat :=
  BitVec.toNat_setWidth_of_le (by decide)

@[simp] theorem byteOperand_toNat (v : Byte) : (byteOperand v).toNat = v.toNat :=
  BitVec.toNat_setWidth_of_le (by decide)

/-- The sum is at most `0xFF + 0xFFF = 0x10FE`, so 16 bits hold it (R67). -/
theorem indexedTarget_toNat (s : State) (nnn : Addr) :
    (indexedTarget s nnn).toNat = (s.reg 0).toNat + nnn.toNat := by
  have hV : (s.reg 0).toNat < 256 := (s.reg 0).isLt
  have hn : nnn.toNat < 4096 := nnn.isLt
  rw [indexedTarget, BitVec.toNat_add_of_lt (by simp only [byteOperand_toNat, addrOperand_toNat]; omega),
    byteOperand_toNat, addrOperand_toNat]

/-- Settles O25: the target is the operand, zero extended. -/
theorem jpJumps : Obligations.JpJumps :=
  fun _ nnn => ⟨addrOperand nnn, rfl, addrOperand_toNat nnn⟩

/-- Settles O27: the target is the sum, which does not wrap. -/
theorem jpV0Jumps : Obligations.JpV0Jumps :=
  fun s nnn => ⟨indexedTarget s nnn, rfl, indexedTarget_toNat s nnn⟩

/-! ### Skips -/

/-- The whole state after a skip whose condition decides `p`. -/
theorem State.skipIf_eq_of_iff (s : State) {c : Bool} {p : Prop} [Decidable p] (h : c = true ↔ p) :
    s.skipIf c = { s with pc := if p then s.pc + 4 else s.pc + 2 } :=
  congrArg s.jump (s.skipIf_pc_of_iff h)

/-- `SE`: a skip when two bytes are equal as unsigned numbers (R68, R70). -/
theorem State.skipIf_beq (s : State) (a b : Byte) :
    s.skipIf (a == b) = { s with pc := if a.toNat = b.toNat then s.pc + 4 else s.pc + 2 } :=
  s.skipIf_eq_of_iff (beq_iff_eq.trans BitVec.toNat_inj.symm)

/-- `SNE`: a skip when two bytes differ as unsigned numbers (R69, R71). -/
theorem State.skipIf_bne (s : State) (a b : Byte) :
    s.skipIf (a != b) = { s with pc := if a.toNat ≠ b.toNat then s.pc + 4 else s.pc + 2 } :=
  s.skipIf_eq_of_iff (bne_iff_ne.trans BitVec.toNat_inj.symm.not)

/-- With `x = y` the condition is known: a byte equals itself. -/
theorem State.skipIf_beq_self (s : State) (a : Byte) : s.skipIf (a == a) = { s with pc := s.pc + 4 } := by
  rw [State.skipIf_beq, if_pos rfl]

theorem State.skipIf_bne_self (s : State) (a : Byte) : s.skipIf (a != a) = { s with pc := s.pc + 2 } := by
  rw [State.skipIf_bne, if_neg (not_not_intro rfl)]

/-- Settles O28: each of the four is a skip by its comparison of two bytes. -/
theorem compareAndSkip : Obligations.CompareAndSkip :=
  fun s x y kk =>
    ⟨congrArg _ (s.skipIf_beq (s.reg x) kk), congrArg _ (s.skipIf_bne (s.reg x) kk),
      congrArg _ (s.skipIf_beq (s.reg x) (s.reg y)), congrArg _ (s.skipIf_bne (s.reg x) (s.reg y)),
      congrArg _ (s.skipIf_beq_self (s.reg x)), congrArg _ (s.skipIf_bne_self (s.reg x))⟩

end Sys2Proof.Machine
end

section
/-! PROOFS. Register loads, the addition of an immediate, and the sum and the differences with a flag
(spec/41_alu.md R74 to R76, R80, R81, R83). -/

namespace Sys2Proof.Machine

/-! ### The registers an ALU instruction leaves -/

/-- An instruction that ends by putting one register changes that register and `pc` alone. -/
theorem exists_regFile_of_setReg {i : Instr} {s : State} {x : Nibble} {v : Byte}
    (h : exec i s = .next (s.setReg x v).advance) :
    ∃ V, exec i s = .next { s with V := V, pc := s.pc + 2 } ∧
      readReg V x = v ∧ ∀ r, r ≠ x → readReg V r = readReg s.V r :=
  ⟨_, h, readReg_writeReg_self s.V x v, fun _ hr => readReg_writeReg_ne s.V v hr⟩

/-- An instruction that ends by putting a result and its flag leaves the flag in `VF` whatever `x` is, since the
flag is put last (R73). -/
theorem exists_regFile_of_putWithFlag {i : Instr} {s : State} {x : Nibble} {v : Byte} {f : Bool}
    (h : exec i s = .next (s.putWithFlag x v f)) :
    ∃ V, exec i s = .next { s with V := V, pc := s.pc + 2 } ∧
      readReg V 15 = flagByte f ∧ (x ≠ 15 → readReg V x = v) ∧
      ∀ r, r ≠ x → r ≠ 15 → readReg V r = readReg s.V r := by
  have hread := readReg_putWithFlag s x v f
  exact ⟨_, h, (hread 15).trans (if_pos rfl), fun hx => (hread x).trans ((if_neg hx).trans (if_pos rfl)),
    fun r hrx hrF => (hread r).trans ((if_neg hrF).trans (if_neg hrx))⟩

/-! ### The flags and the difference as numbers -/

theorem flagByte_decide_toNat (p : Prop) [Decidable p] :
    (flagByte (decide p)).toNat = if p then 1 else 0 := by
  by_cases hp : p <;> simp [hp, flagByte]

theorem flagByte_carryFlag_toNat (a b : Byte) :
    (flagByte (carryFlag a b)).toNat = if a.toNat + b.toNat ≥ 256 then 1 else 0 :=
  flagByte_decide_toNat _

theorem flagByte_noBorrowFlag_toNat (a b : Byte) :
    (flagByte (noBorrowFlag a b)).toNat = if a.toNat ≥ b.toNat then 1 else 0 :=
  flagByte_decide_toNat _

theorem byte_sub_toNat (a b : Byte) : ((a - b).toNat : Int) = (a.toNat - b.toNat : Int) % 256 := by
  rw [BitVec.toNat_sub]
  omega

/-- What R81 and R83 share: the difference of two bytes, in either order, put with its no-borrow flag. -/
theorem exists_regFile_of_putDifference {i : Instr} {s : State} {x : Nibble} {a b : Byte}
    (h : exec i s = .next (s.putWithFlag x (a - b) (noBorrowFlag a b))) :
    ∃ V, exec i s = .next { s with V := V, pc := s.pc + 2 } ∧
      (readReg V 15).toNat = (if a.toNat ≥ b.toNat then 1 else 0) ∧
      (x ≠ 15 → ((readReg V x).toNat : Int) = (a.toNat - b.toNat : Int) % 256) ∧
      ∀ r, r ≠ x → r ≠ 15 → readReg V r = readReg s.V r := by
  obtain ⟨V, hexec, hflag, hresult, hrest⟩ := exists_regFile_of_putWithFlag h
  refine ⟨V, hexec, ?_, fun hx => ?_, hrest⟩
  · rw [hflag, flagByte_noBorrowFlag_toNat]
  · rw [hresult hx, byte_sub_toNat]

/-! ### The statements -/

/-- Settles O30: each of the three puts one register, and the sum of two bytes is modulo 256. -/
theorem loadCopyAndAddImmediate : Obligations.LoadCopyAndAddImmediate := by
  intro s x y kk
  refine ⟨exists_regFile_of_setReg rfl, ?_, exists_regFile_of_setReg rfl⟩
  obtain ⟨V, hexec, hsum, hrest⟩ := exists_regFile_of_setReg (i := .addByte x kk) (s := s) rfl
  exact ⟨V, hexec, hsum ▸ BitVec.toNat_add _ _, hrest⟩

/-- Settles O32: the sum is put with its carry. -/
theorem addWithCarry : Obligations.AddWithCarry := by
  intro s x y
  obtain ⟨V, hexec, hflag, hsum, hrest⟩ :=
    exists_regFile_of_putWithFlag (i := .addReg x y) (s := s) rfl
  refine ⟨V, hexec, ?_, fun hx => ?_, hrest⟩
  · rw [hflag]
    exact flagByte_carryFlag_toNat _ _
  · rw [hsum hx]
    exact BitVec.toNat_add _ _

/-- Settles O33: the difference `Vx - Vy` is put with its no-borrow flag. -/
theorem subtractNoBorrow : Obligations.SubtractNoBorrow :=
  fun _ _ _ => exists_regFile_of_putDifference rfl

/-- Settles O34: the difference `Vy - Vx` is put with its no-borrow flag. -/
theorem reverseSubtractNoBorrow : Obligations.ReverseSubtractNoBorrow :=
  fun _ _ _ => exists_regFile_of_putDifference rfl

end Sys2Proof.Machine
end

section
/-! PROOFS. The load of the address register, and the store of the decimal digits (spec/42_index_memory.md R88,
R91). -/

namespace Sys2Proof.Machine

/-! ### The address register -/

/-- Settles O38: the new `I` is the operand, zero extended. -/
theorem loadAddressRegister : Obligations.LoadAddressRegister :=
  fun _ nnn => ⟨addrOperand nnn, rfl, addrOperand_toNat nnn⟩

/-! ### Runs of writes at effective addresses -/

/-- A run of at most 4096 bytes from `EA(0)` does not wrap onto itself, so each of its bytes stays (R35, R41). -/
theorem readByte_writeBytes_effAddr (m : Memory) (I : Word) (f : Nat → Byte) {n k : Nat} (hn : n ≤ 4096)
    (hk : k < n) : readByte (writeBytes (effAddr I) f n m) (effAddr I k) = f k :=
  readByte_writeBytes_inside m (effAddr I) f hk fun _ _ hi hj =>
    effAddr_injective I (hi.trans_le hn) (hj.trans_le hn)

/-! ### The decimal digits as numbers -/

theorem decimalDigit_zero_toNat (v : Byte) : (decimalDigit v 0).toNat = v.toNat / 100 :=
  Nat.mod_eq_of_lt ((Nat.div_le_self _ _).trans_lt v.isLt)

theorem decimalDigit_one_toNat (v : Byte) : (decimalDigit v 1).toNat = v.toNat / 10 % 10 :=
  Nat.mod_eq_of_lt ((Nat.mod_lt _ (by decide)).trans (by decide))

theorem decimalDigit_two_toNat (v : Byte) : (decimalDigit v 2).toNat = v.toNat % 10 :=
  Nat.mod_eq_of_lt ((Nat.mod_lt _ (by decide)).trans (by decide))

/-- Settles O40: the three addresses differ, so each digit is read back, and no other byte is written. -/
theorem storeDecimalDigits : Obligations.StoreDecimalDigits := by
  intro s x
  have hdigit {k : Nat} (hk : k < 3) :=
    readByte_writeBytes_effAddr s.mem s.I (decimalDigit (s.reg x)) (by decide) hk
  refine ⟨writeBytes (effAddr s.I) (decimalDigit (s.reg x)) 3 s.mem, rfl, ?_, ?_, ?_, fun a h0 h1 h2 => ?_⟩
  · rw [hdigit (by decide), decimalDigit_zero_toNat]
  · rw [hdigit (by decide), decimalDigit_one_toNat]
  · rw [hdigit (by decide), decimalDigit_two_toNat]
  · refine readByte_writeBytes_outside s.mem _ _ 3 a fun k hk => ?_
    interval_cases k
    · exact h0
    · exact h1
    · exact h2

end Sys2Proof.Machine
end

section
/-! PROOFS. The clear of the framebuffer (spec/43_display.md R95). -/

namespace Sys2Proof.Machine

/-- Settles O43: the framebuffer put is the cleared one, whose every pixel is 0. -/
theorem clearFramebuffer : Obligations.ClearFramebuffer :=
  fun _ => ⟨clearFB, rfl, pixel_clearFB⟩

end Sys2Proof.Machine
end

section
/-! PROOFS. The delay timer and the sound timer (spec/44_input_timer_random.md R102, R104, R105). -/

namespace Sys2Proof.Machine

/-- Settles O48: `Fx07` puts one register, and `Fx15` and `Fx18` are the update of their timer by definition. -/
theorem timerMoves : Obligations.TimerMoves :=
  fun _ _ => ⟨exists_regFile_of_setReg rfl, rfl, rfl⟩

end Sys2Proof.Machine
end

section
/-! PROOFS. The fault InvalidOpcode (spec/60_exceptions.md R107): the words the opcode map leaves out are the words
the decoder rejects (spec/30_encoding.md R53, R54, R56), and only such a word raises it. -/

namespace Sys2Proof.Machine

/-! ### The fields a row's match fixes -/

theorem fieldClass_of_classMask {w b : Word} (h : w &&& 0xF000 = b) : fieldClass w = fieldClass b := by
  rw [← h, and_classMask, fieldClass_encodeNNN]

theorem fields_of_functionNibbleMask {w b : Word} (h : w &&& 0xF00F = b) :
    fieldClass w = fieldClass b ∧ fieldN w = fieldN b := by
  rw [← h, and_functionNibbleMask, fieldClass_encodeXYN, fieldN_encodeXYN]
  exact ⟨rfl, rfl⟩

theorem fields_of_functionByteMask {w b : Word} (h : w &&& 0xF0FF = b) :
    fieldClass w = fieldClass b ∧ fieldKK w = fieldKK b := by
  rw [← h, and_functionByteMask, fieldClass_encodeXKK, fieldKK_encodeXKK]
  exact ⟨rfl, rfl⟩

/-! ### A word is legal exactly when it decodes -/

/-- The decoder tests no field but those the row's mask covers, so a word admitted by a row takes that row's
branch. -/
theorem exists_decode_of_row_admits {i : Instr} {w : Word} (h : i.row.admits w = true) :
    ∃ j, decode w = .instr j := by
  rw [Row.admits, beq_iff_eq] at h
  cases i
  case cls | ret =>
    obtain rfl : w = _ := BitVec.and_allOnes.symm.trans h
    exact ⟨_, rfl⟩
  case jp | call | seByte | sneByte | ldByte | addByte | ldI | jpV0 | rnd | drw =>
    rw [decode, fieldClass_of_classMask h]
    simp [Instr.row, fieldClass]
  case skp | sknp | ldVxDT | ldVxK | ldDTVx | ldSTVx | addI | ldF | ldB | storeRegs | loadRegs =>
    obtain ⟨hclass, hkk⟩ := fields_of_functionByteMask h
    rw [decode, hclass, hkk]
    simp [Instr.row, fieldClass, fieldKK, decodeClassE, decodeClassF]
  all_goals
    obtain ⟨hclass, hn⟩ := fields_of_functionNibbleMask h
    rw [decode, hclass, hn]
    simp [Instr.row, fieldClass, fieldN, decodeClass8]

theorem row_admits_of_decode {i : Instr} {w : Word} (h : decode w = .instr i) : i.row.admits w = true := by
  have hspell : i.spelledBy w = true := spelledBy_iff_encode_eq.mpr (encode_eq_of_decode h)
  exact (Bool.and_eq_true_iff.mp hspell).1

theorem exists_row_eq_of_mem_opcodeMap {r : Row} (h : r ∈ opcodeMap) : ∃ i : Instr, i.row = r := by
  rw [opcodeMap, ← List.map_append, ← List.map_append] at h
  obtain ⟨i, -, hi⟩ := List.mem_map.mp h
  exact ⟨i, hi⟩

theorem wordWellFormed_iff_decode {w : Word} : wordWellFormed w = true ↔ ∃ i, decode w = .instr i := by
  rw [wordWellFormed, List.any_eq_true]
  constructor
  · rintro ⟨r, hr, hw⟩
    obtain ⟨i, rfl⟩ := exists_row_eq_of_mem_opcodeMap hr
    exact exists_decode_of_row_admits hw
  · rintro ⟨i, hi⟩
    exact ⟨i.row, row_mem_opcodeMap i, row_admits_of_decode hi⟩

theorem wordWellFormed_eq_false_iff_decode {w : Word} :
    wordWellFormed w = false ↔ ∃ why, decode w = .illegal why := by
  rw [← Bool.not_eq_true, wordWellFormed_iff_decode]
  cases decode w <;> simp

/-! ### The Step that fetches such a word, and every other -/

theorem coreStep_of_illegal {s : State} {why : Illegal} (hpc : s.pc.toNat ≤ 0xFFE)
    (hd : decode s.fetchWord = .illegal why) :
    coreStep s = .next (s.clearResults.raise .invalidOpcode (some s.fetchWord)) := by
  simp [coreStep, fetchInRange, hpc, hd]

/-- A Step that does not start from a recorded InvalidOpcode and fetches a legal word records none: the fetch
check and the instructions raise other kinds. -/
theorem kind_ne_invalidOpcode_of_coreStep {s t : State} {f : FaultRecord} (hs : s.fault = none)
    (hw : wordWellFormed s.fetchWord = true) (h : coreStep s = .next t) (hf : t.fault = some f) :
    f.kind ≠ .invalidOpcode := by
  obtain ⟨-, rfl⟩ | ⟨-, hillegal, -⟩ | ⟨-, i, -, hexec⟩ := coreStep_cases h
  · cases hf
    simp
  · rw [← wordWellFormed_eq_false_iff_decode, hw] at hillegal
    cases hillegal
  · obtain ⟨k, hk, -, rfl⟩ | ⟨-, -, hkeep, -⟩ := exec_keeps i _ t hexec
    · cases hf
      exact hk
    · have hnone : t.fault = none := hkeep.trans hs
      cases hnone.symm.trans hf

/-- Settles O13: the start and the end of the Tick around a Step change neither the word fetched nor the record. -/
theorem invalidOpcodeRaised : Obligations.InvalidOpcodeRaised := by
  intro s hrun hfault hpc
  constructor
  · intro hw
    obtain ⟨why, hd⟩ := wordWellFormed_eq_false_iff_decode.mp hw
    rw [step_running hrun, coreStep_of_illegal (s := s.beginTick) hpc hd]
    exact ⟨_, rfl, rfl, rfl⟩
  · intro hw t f h hf
    obtain ⟨hhalted, -⟩ | ⟨-, u, hu, rfl⟩ := step_cases h
    · cases hrun.symm.trans hhalted
    · exact kind_ne_invalidOpcode_of_coreStep (s := s.beginTick) hfault hw hu hf

end Sys2Proof.Machine
end

section
/-! PROOFS. The sound output (spec/60_exceptions.md R123). -/

namespace Sys2Proof.Machine

/-- Settles O23: `sound_on` tests the timer against 0, and a byte is 0 exactly when its value is. -/
theorem soundOnExactlyWhenTimerRuns : Obligations.SoundOnExactlyWhenTimerRuns :=
  fun _ => bne_iff_ne.trans BitVec.toNat_ne_iff_ne.symm

end Sys2Proof.Machine
end

section
/-! PROOFS. Encoding: the round trip through words and bytes (spec/30_encoding.md sections 2 and 3), and the illegal
words class by class (R56). -/

namespace Sys2Proof.Machine

/-! ### Bytes in memory order -/

/-- The decoder of bytes answers an instruction exactly when the decoder of words does, on the first two bytes. -/
theorem decodeBytes_eq_instr_iff {hi lo : Byte} {rest : List Byte} {i : Instr} :
    decodeBytes (hi :: lo :: rest) = .instr i rest ↔ decode (wordOfBytes hi lo) = .instr i := by
  rw [decodeBytes]
  cases decode (wordOfBytes hi lo) <;> simp

/-- Settles O1: the decoder inverts the encoder on words, and the two bytes of a word joined are the word. -/
theorem decodeOfEncode : Obligations.DecodeOfEncode := by
  refine fun i => ⟨decode_encode i, fun rest => decodeBytes_eq_instr_iff.mpr ?_⟩
  rw [wordOfBytes_bytes]
  exact decode_encode i

/-- Settles O4: each word computes. -/
theorem sampleWordsDecode : Obligations.SampleWordsDecode := by
  unfold Obligations.SampleWordsDecode
  decide

/-! ### The words each class rejects -/

/-- Classes 5 and 9 test one condition. -/
theorem ite_illegal_iff {p : Prop} [Decidable p] {i : Instr} {why : Illegal} :
    (∃ y, (if p then Decoded.instr i else .illegal why) = .illegal y) ↔ ¬p := by
  by_cases hp : p <;> simp [hp]

theorem decodeClass0_illegal_iff (w : Word) :
    (∃ why, decodeClass0 w = .illegal why) ↔ w ≠ 0x00E0 ∧ w ≠ 0x00EE := by
  unfold decodeClass0
  split_ifs with h0 h1
  · simp [h0]
  · simp [h1]
  · exact ⟨fun _ => ⟨h0, h1⟩, fun _ => ⟨_, rfl⟩⟩

theorem decodeClass8_illegal_iff (x y n : Nibble) :
    (∃ why, decodeClass8 x y n = .illegal why) ↔
      n.toNat ∈ [0x8, 0x9, 0xA, 0xB, 0xC, 0xD, 0xF] := by
  have hn : n.toNat < 16 := n.isLt
  unfold decodeClass8
  split_ifs
  case neg =>
    refine ⟨fun _ => ?_, fun _ => ⟨_, rfl⟩⟩
    simp only [List.mem_cons, List.not_mem_nil, or_false]
    bv_omega
  all_goals simp [*]

theorem decodeClassE_illegal_iff (x : Nibble) (kk : Byte) :
    (∃ why, decodeClassE x kk = .illegal why) ↔ kk.toNat ∉ [0x9E, 0xA1] := by
  unfold decodeClassE
  split_ifs <;> simp_all [← BitVec.toNat_inj]

theorem decodeClassF_illegal_iff (x : Nibble) (kk : Byte) :
    (∃ why, decodeClassF x kk = .illegal why) ↔
      kk.toNat ∉ [0x07, 0x0A, 0x15, 0x18, 0x1E, 0x29, 0x33, 0x55, 0x65] := by
  unfold decodeClassF
  split_ifs <;> simp_all [← BitVec.toNat_inj]

/-- The rejected words by the class the decoder branches on. -/
theorem decode_illegal_iff (w : Word) :
    (∃ why, decode w = .illegal why) ↔
      (fieldClass w = 0x0 ∧ w ≠ 0x00E0 ∧ w ≠ 0x00EE) ∨
      (fieldClass w = 0x5 ∧ fieldN w ≠ 0) ∨
      (fieldClass w = 0x9 ∧ fieldN w ≠ 0) ∨
      (fieldClass w = 0x8 ∧ (fieldN w).toNat ∈ [0x8, 0x9, 0xA, 0xB, 0xC, 0xD, 0xF]) ∨
      (fieldClass w = 0xE ∧ (fieldKK w).toNat ∉ [0x9E, 0xA1]) ∨
      (fieldClass w = 0xF ∧
        (fieldKK w).toNat ∉ [0x07, 0x0A, 0x15, 0x18, 0x1E, 0x29, 0x33, 0x55, 0x65]) := by
  unfold decode
  split
  case h_1 hc =>
    have hclass : fieldClass w = 0 := word_ext_nat hc
    rw [decodeClass0_illegal_iff, hclass]
    simp
  case h_9 hc =>
    have hclass : fieldClass w = 8 := word_ext_nat hc
    rw [decodeClass8_illegal_iff, hclass]
    simp
  case h_15 hc =>
    have hclass : fieldClass w = 0xE := word_ext_nat hc
    rw [decodeClassE_illegal_iff, hclass]
    simp
  case h_16 =>
    have hclass : fieldClass w = 0xF := by
      have := (fieldClass w).isLt
      simp only [imp_false] at *
      bv_omega
    rw [decodeClassF_illegal_iff, hclass]
    simp
  case h_6 hc =>
    have hclass : fieldClass w = 5 := word_ext_nat hc
    rw [ite_illegal_iff, hclass]
    simp
  case h_10 hc =>
    have hclass : fieldClass w = 9 := word_ext_nat hc
    rw [ite_illegal_iff, hclass]
    simp
  all_goals
    rename_i hc
    simp [← BitVec.toNat_inj, hc]

/-- Settles O3: the rejected words class by class, the rows of the map, and the raise of such a word. -/
theorem illegalWordsByClass : Obligations.IllegalWordsByClass := by
  refine ⟨decode_illegal_iff, fun w => ?_, fun s hpc ⟨why, hd⟩ => coreStep_of_illegal hpc hd⟩
  rw [← wordWellFormed_eq_false_iff_decode, wordWellFormed, List.any_eq_false]
  simp only [Bool.not_eq_true]

end Sys2Proof.Machine
end

section
/-! PROOFS. What no instruction does: the frames of registers, memory and the rest of the state over the whole
instruction set (spec/10_state.md R13 to R27, spec/20_memory.md R44). -/

namespace Sys2Proof.Machine

/-! ### What the four instructions with a fault do: raise it, or their one effect -/

theorem eq_raise_or_of_ite {c : Prop} [Decidable c] {s t : State} {k : FaultKind} {w : Option Word} {r : Result}
    (h : (if c then .next (s.raise k w) else r) = .next t) : c ∧ t = s.raise k w ∨ ¬c ∧ r = .next t := by
  split at h
  case isTrue hc =>
    injection h with h
    exact .inl ⟨hc, h.symm⟩
  case isFalse hc => exact .inr ⟨hc, h⟩

theorem not_and_next_of_ite_fault {c : Prop} [Decidable c] {t : State} {f : Fault} {r : Result}
    (h : (if c then .fault f else r) = .next t) : ¬c ∧ r = .next t :=
  ⟨fun hc => by simp [hc] at h, next_of_ite_fault h⟩

theorem exec_ret_cases {s t : State} (h : exec .ret s = .next t) :
    (∃ k w, t = s.raise k w) ∨
      (0 < s.sp.toNat ∧ s.sp.toNat ≤ 16 ∧ t = s.pop.jump (s.topEntry + 2)) := by
  obtain ⟨-, rfl⟩ | ⟨h0, h⟩ := eq_raise_or_of_ite h
  · exact .inl ⟨_, _, rfl⟩
  · obtain ⟨h16, h⟩ := not_and_next_of_ite_fault h
    injection h with h
    exact .inr ⟨by bv_omega, by omega, h.symm⟩

theorem exec_call_cases {s t : State} {nnn : Addr} (h : exec (.call nnn) s = .next t) :
    (∃ k w, t = s.raise k w) ∨ (s.sp.toNat < 16 ∧ t = (s.push s.pc).jump (addrOperand nnn)) := by
  obtain ⟨-, rfl⟩ | ⟨h0, h⟩ := eq_raise_or_of_ite h
  · exact .inl ⟨_, _, rfl⟩
  · obtain ⟨h16, h⟩ := not_and_next_of_ite_fault h
    injection h with h
    exact .inr ⟨by bv_omega, h.symm⟩

theorem exec_skp_cases {s t : State} {x : Nibble} (h : exec (.skp x) s = .next t) :
    (∃ k w, t = s.raise k w) ∨ ∃ c, t = s.skipIf c := by
  obtain ⟨-, rfl⟩ | ⟨-, h⟩ := eq_raise_or_of_ite h
  · exact .inl ⟨_, _, rfl⟩
  · injection h with h
    exact .inr ⟨_, h.symm⟩

theorem exec_sknp_cases {s t : State} {x : Nibble} (h : exec (.sknp x) s = .next t) :
    (∃ k w, t = s.raise k w) ∨ ∃ c, t = s.skipIf c := by
  obtain ⟨-, rfl⟩ | ⟨-, h⟩ := eq_raise_or_of_ite h
  · exact .inl ⟨_, _, rfl⟩
  · injection h with h
    exact .inr ⟨_, h.symm⟩

/-- None of the four writes a register or memory. -/
theorem exec_control_keeps {i : Instr} {s t : State}
    (hi : i = .ret ∨ (∃ nnn, i = .call nnn) ∨ (∃ x, i = .skp x) ∨ ∃ x, i = .sknp x) (h : exec i s = .next t) :
    t.V = s.V ∧ t.mem = s.mem := by
  obtain rfl | ⟨nnn, rfl⟩ | ⟨x, rfl⟩ | ⟨x, rfl⟩ := hi
  · obtain ⟨k, w, rfl⟩ | ⟨-, -, rfl⟩ := exec_ret_cases h <;> exact ⟨rfl, rfl⟩
  · obtain ⟨k, w, rfl⟩ | ⟨-, rfl⟩ := exec_call_cases h <;> exact ⟨rfl, rfl⟩
  · obtain ⟨k, w, rfl⟩ | ⟨c, rfl⟩ := exec_skp_cases h <;> exact ⟨rfl, rfl⟩
  · obtain ⟨k, w, rfl⟩ | ⟨c, rfl⟩ := exec_sknp_cases h <;> exact ⟨rfl, rfl⟩

/-! ### Registers -/

/-- Settles O51: an instruction puts no register, one register, a result and its flag, or the registers up to `x`. -/
theorem registerFrame : Obligations.RegisterFrame := by
  intro i s t r h hr
  cases i
  case ret | call | skp | sknp =>
    rw [(exec_control_keeps (by simp) h).1]
  case ldByte | addByte | ldReg | orReg | andReg | xorReg | rnd | ldVxDT | drw =>
    injection h with h
    subst h
    exact readReg_writeReg_ne _ _ (beq_eq_false_iff_ne.mp hr)
  case addReg | subReg | shr | subnReg | shl =>
    injection h with h
    subst h
    obtain ⟨hx, hF⟩ := Bool.or_eq_false_iff.mp hr
    exact (readReg_putWithFlag ..).trans <|
      (if_neg (beq_eq_false_iff_ne.mp hF)).trans (if_neg (beq_eq_false_iff_ne.mp hx))
  case ldVxK x =>
    injection h with h
    subst h
    show readReg (keyWaitRegs s.V x (firstPressed s.K)) r = readReg s.V r
    cases firstPressed s.K
    · rfl
    · exact readReg_writeReg_ne _ _ (beq_eq_false_iff_ne.mp hr)
  case loadRegs x =>
    injection h with h
    subst h
    have hx : ¬r.toNat < regCount x := fun hlt => of_decide_eq_false hr (Nat.le_of_lt_succ hlt)
    exact (readReg_loadRegsFrom _ _ _ x.isLt r).trans (if_neg hx)
  all_goals
    injection h with h
    exact h ▸ rfl

/-- The six instructions with a flag put a flag byte into `VF` last (R14). -/
theorem vf_eq_zero_or_one_of_flagged {i : Instr} {s t : State} {x y n : Nibble}
    (hi : i = .addReg x y ∨ i = .subReg x y ∨ i = .subnReg x y ∨ i = .shr x y ∨ i = .shl x y ∨ i = .drw x y n)
    (h : exec i s = .next t) : readReg t.V 15 = 0 ∨ readReg t.V 15 = 1 := by
  have hflag : ∃ f, readReg t.V 15 = flagByte f := by
    obtain rfl | rfl | rfl | rfl | rfl | rfl := hi
    all_goals
      injection h with h
      subst h
      exact ⟨_, readReg_writeReg_self _ 15 _⟩
  obtain ⟨f, hf⟩ := hflag
  rw [hf]
  exact flagByte_cases f

/-- An instruction without a flag that does not name `VF` as its destination writes only other registers. -/
theorem writesReg_vf_eq_false {i : Instr}
    (hi : ∀ x y n kk, i ≠ .addReg x y ∧ i ≠ .subReg x y ∧ i ≠ .subnReg x y ∧ i ≠ .shr x y ∧ i ≠ .shl x y ∧
      i ≠ .drw x y n ∧ i ≠ .ldByte 15 kk ∧ i ≠ .addByte 15 kk ∧ i ≠ .ldReg 15 y ∧ i ≠ .orReg 15 y ∧
      i ≠ .andReg 15 y ∧ i ≠ .xorReg 15 y ∧ i ≠ .rnd 15 kk ∧ i ≠ .ldVxDT 15 ∧ i ≠ .ldVxK 15 ∧
      i ≠ .loadRegs 15) : writesReg 15 i = false := by
  cases i
  case loadRegs x =>
    have hx : x ≠ 15 := by simpa using hi
    have hlt : ¬(15 : Nibble).toNat ≤ x.toNat := by bv_omega
    exact decide_eq_false hlt
  case ldByte | addByte | ldReg | orReg | andReg | xorReg | rnd | ldVxDT | ldVxK =>
    exact beq_eq_false_iff_ne.mpr (Ne.symm (by simpa using hi))
  case addReg | subReg | subnReg | shr | shl | drw => simp at hi
  all_goals rfl

/-- Settles O52: the six write a flag byte last; for every other instruction that does not name `VF`, `VF` lies in
the frame of O51. -/
theorem flagWriters : Obligations.FlagWriters :=
  fun s t i h => ⟨fun _ _ _ hi => vf_eq_zero_or_one_of_flagged hi h,
    fun hi => registerFrame i s t 15 h (writesReg_vf_eq_false hi)⟩

/-! ### Memory -/

/-- Every instruction is a run of writes from `EA(0)` on as long as its row of `storedBytes`, mostly of no byte. -/
theorem exec_mem {i : Instr} {s t : State} (h : exec i s = .next t) :
    ∃ f, t.mem = writeBytes (effAddr s.I) f (storedBytes i) s.mem := by
  cases i
  case ret | call | skp | sknp =>
    exact ⟨fun _ => 0, (exec_control_keeps (by simp) h).2⟩
  case ldB | storeRegs =>
    injection h with h
    subst h
    exact ⟨_, rfl⟩
  all_goals
    injection h with h
    exact ⟨fun _ => 0, h ▸ rfl⟩

/-- Settles O53: a run of writes leaves every other address alone. -/
theorem memoryFrame : Obligations.MemoryFrame := by
  intro i s t a h ha
  obtain ⟨f, hmem⟩ := exec_mem h
  rw [hmem]
  exact readByte_writeBytes_outside s.mem _ f _ a ha

/-! ### The rest of the state -/

/-- Settles O54: the four with a fault by what they write, every other instruction by its own update. -/
theorem specialStateWriters : Obligations.SpecialStateWriters := by
  intro i s t h
  cases i
  case ret =>
    obtain ⟨k, w, rfl⟩ | ⟨-, -, rfl⟩ := exec_ret_cases h <;> simp
  case call =>
    obtain ⟨k, w, rfl⟩ | ⟨-, rfl⟩ := exec_call_cases h <;> simp
  case skp =>
    obtain ⟨k, w, rfl⟩ | ⟨c, rfl⟩ := exec_skp_cases h <;> simp
  case sknp =>
    obtain ⟨k, w, rfl⟩ | ⟨c, rfl⟩ := exec_sknp_cases h <;> simp
  all_goals
    injection h with h
    subst h
    simp

end Sys2Proof.Machine
end

section
/-! PROOFS. The invariant of legal states (spec/10_state.md sections 3, 4, 8 and 9): it holds at reset, every step
keeps it, and from a state that meets it the model never stops. -/

namespace Sys2Proof.Machine

/-! ### The invariant inside a step -/

/-- The invariant while a Step runs: all but `haltedBetweenTicks`, since a Step that raises leaves the budget to the
end of the Tick. -/
structure State.StepInv (s : State) : Prop where
  spLegal : s.sp.toNat ≤ 16
  entriesLegal : ∀ j, j < 16 → (s.stack.getD j 0).toNat ≤ 0xFFE
  pcLegal : s.pc.toNat ≤ 0x10FE
  memCanonical : s.mem.wf = true
  faultIffHalted : s.fault.isSome = s.halted
  budgetLegal : s.left ≤ Config.instrPerTick

theorem State.StepInv.raise {s : State} (h : s.StepInv) (k : FaultKind) (w : Option Word) :
    (s.raise k w).StepInv :=
  { h with faultIffHalted := rfl }

theorem State.Inv.beginTick {s : State} (h : s.Inv) : s.beginTick.StepInv where
  spLegal := h.spLegal
  entriesLegal := h.entriesLegal
  pcLegal := h.pcLegal
  memCanonical := h.memCanonical
  faultIffHalted := h.faultIffHalted
  budgetLegal := by
    rw [State.beginTick_left]
    split
    · exact le_rfl
    · exact h.budgetLegal

/-- A halted block ends its Tick, so the end of a Step restores the whole invariant. -/
theorem State.StepInv.endStep {s : State} (h : s.StepInv) : s.endStep.Inv where
  spLegal := h.spLegal
  entriesLegal := h.entriesLegal
  pcLegal := h.pcLegal
  memCanonical := h.memCanonical
  faultIffHalted := h.faultIffHalted
  budgetLegal := by
    have := h.budgetLegal
    rw [State.endStep_left]
    split <;> omega
  haltedBetweenTicks := fun hh => by
    have hhalted : s.halted = true := hh
    simp [State.tickOver, hhalted]

/-! ### One field of the invariant each -/

/-- The largest next `pc` is that of `Bnnn`, `0xFF + 0xFFF` (10_state.md R19). -/
theorem pcTable_toNat_le {s : State} (i : Instr) (hpc : s.pc.toNat ≤ 0xFFE) (hsp : s.sp.toNat ≤ 16)
    (hstack : ∀ j, j < 16 → (s.stack.getD j 0).toNat ≤ 0xFFE) : (pcTable s i).toNat ≤ 0x10FE := by
  have h2 : (s.pc + 2).toNat ≤ 0x10FE := by bv_omega
  have h4 : (s.pc + 4).toNat ≤ 0x10FE := by bv_omega
  cases i
  case jp nnn | call nnn =>
    have := nnn.isLt
    exact (addrOperand_toNat nnn).le.trans (by omega)
  case jpV0 nnn =>
    have hn := nnn.isLt
    have hV := (s.reg 0).isLt
    exact (indexedTarget_toNat s nnn).le.trans (by omega)
  case ret =>
    have he := hstack (s.sp.toNat - 1) (by omega)
    show (s.stack.getD (s.sp.toNat - 1) 0 + 2).toNat ≤ 0x10FE
    bv_omega
  case seByte | sneByte | seReg | sneReg | skp | sknp =>
    rw [pcTable]
    split <;> assumption
  case ldVxK =>
    rw [pcTable]
    split <;> omega
  all_goals exact h2

/-- A push puts the entry at `sp` and keeps every other. -/
theorem getD_setIfInBounds (stack : Vector Word 16) (n j : Nat) (e : Word) (hj : j < 16) :
    (stack.setIfInBounds n e).getD j 0 = if n = j then e else stack.getD j 0 := by
  simp [Vector.getD, Array.getElem_setIfInBounds, hj]

/-- Only a `2nnn` pushes, and what it pushes is the `pc` it was fetched from. -/
theorem exec_stack_legal {i : Instr} {s t : State} (h : exec i s = .next t) (hpc : s.pc.toNat ≤ 0xFFE)
    (hsp : s.sp.toNat ≤ 16) (hstack : ∀ j, j < 16 → (s.stack.getD j 0).toNat ≤ 0xFFE) :
    t.sp.toNat ≤ 16 ∧ ∀ j, j < 16 → (t.stack.getD j 0).toNat ≤ 0xFFE := by
  obtain ⟨-, hkeepStack, hkeepSp, -⟩ := specialStateWriters i s t h
  cases i
  case ret =>
    obtain ⟨k, w, rfl⟩ | ⟨hpos, -, rfl⟩ := exec_ret_cases h
    · exact ⟨hsp, hstack⟩
    · refine ⟨?_, hstack⟩
      show (s.sp - 1).toNat ≤ 16
      bv_omega
  case call =>
    obtain ⟨k, w, rfl⟩ | ⟨hlt, rfl⟩ := exec_call_cases h
    · exact ⟨hsp, hstack⟩
    · constructor
      · show (s.sp + 1).toNat ≤ 16
        bv_omega
      · intro j hj
        show ((s.stack.setIfInBounds s.sp.toNat s.pc).getD j 0).toNat ≤ 0xFFE
        rw [getD_setIfInBounds _ _ _ _ hj]
        split
        · exact hpc
        · exact hstack j hj
  all_goals exact ⟨hkeepSp (by simp) ▸ hsp, hkeepStack (by simp) ▸ hstack⟩

/-! ### Every part of a step keeps it -/

theorem State.StepInv.exec {i : Instr} {s t : State} (h : s.StepInv) (hrun : s.halted = false)
    (hpc : s.pc.toNat ≤ 0xFFE) (hexec : exec i s = .next t) : t.StepInv := by
  obtain ⟨k, -, -, rfl⟩ | ⟨-, hhalted, hfault, -, hleft, -⟩ := exec_keeps i s t hexec
  · exact h.raise k _
  · obtain ⟨hsp, hstack⟩ := exec_stack_legal hexec hpc h.spLegal h.entriesLegal
    obtain ⟨f, hmem⟩ := exec_mem hexec
    exact {
      spLegal := hsp
      entriesLegal := hstack
      pcLegal := exec_pc hexec (hhalted.trans hrun) ▸ pcTable_toNat_le i hpc h.spLegal h.entriesLegal
      memCanonical := hmem ▸ wf_writeBytes _ f _ h.memCanonical
      faultIffHalted := by rw [hfault, hhalted, h.faultIffHalted]
      budgetLegal := hleft.le.trans h.budgetLegal }

theorem State.StepInv.clearResults {s : State} (h : s.StepInv) : s.clearResults.StepInv := { h with }

theorem State.StepInv.coreStep {s t : State} (h : s.StepInv) (hrun : s.halted = false)
    (hstep : coreStep s = .next t) : t.StepInv := by
  obtain ⟨-, rfl⟩ | ⟨-, -, rfl⟩ | ⟨hfetch, i, -, hexec⟩ := coreStep_cases hstep
  · exact h.clearResults.raise _ _
  · exact h.clearResults.raise _ _
  · exact h.clearResults.exec hrun (of_decide_eq_true hfetch) hexec

/-- Settles O56: a halted block changes nothing the invariant speaks of; otherwise the invariant holds through the
start of the Tick, the Step and its end. -/
theorem invariantKeptByStep : Obligations.InvariantKeptByStep := by
  intro s t h hstep
  obtain ⟨-, rfl⟩ | ⟨hrun, u, hu, rfl⟩ := step_cases hstep
  · exact { h with }
  · exact (h.beginTick.coreStep hrun hu).endStep

/-! ### The model never stops -/

/-- The model's own fault needs an `sp` above 16 (log 10). -/
theorem exists_exec_next (i : Instr) {s : State} (hsp : s.sp.toNat ≤ 16) : ∃ t, exec i s = .next t := by
  cases i
  case ret | call =>
    simp only [exec, execRet, execCall, if_neg (Nat.not_lt.mpr hsp)]
    split <;> exact ⟨_, rfl⟩
  case skp | sknp =>
    simp only [exec, execSkp, execSknp]
    split <;> exact ⟨_, rfl⟩
  all_goals exact ⟨_, rfl⟩

theorem exists_coreStep_next {s : State} (hsp : s.sp.toNat ≤ 16) : ∃ t, coreStep s = .next t := by
  unfold coreStep
  split
  · split
    · exact exists_exec_next _ hsp
    · exact ⟨_, rfl⟩
  · exact ⟨_, rfl⟩

theorem State.Inv.exists_step_next {s : State} (h : s.Inv) : ∃ t, step s = .next t := by
  cases hh : s.halted
  case true => exact ⟨_, step_halted hh⟩
  case false =>
    obtain ⟨u, hu⟩ := exists_coreStep_next (s := s.beginTick) h.spLegal
    exact ⟨u.endStep, by rw [step_running hh, hu, afterStep]⟩

/-- Settles O57: by induction on the number of steps, each of which answers a next state that meets the invariant. -/
theorem stepNeverStops : Obligations.StepNeverStops := by
  intro k
  induction k with
  | zero => exact fun s h => ⟨s, run_zero s, h⟩
  | succ k ih =>
    intro s h
    obtain ⟨t, ht⟩ := h.exists_step_next
    rw [run_succ_next k ht]
    exact ih t (invariantKeptByStep s t h ht)

/-- Settles O55: each bound computes. -/
theorem invariantAtReset : Obligations.InvariantAtReset where
  spLegal := by decide
  entriesLegal := by decide
  pcLegal := by decide
  memCanonical := wf_nil
  faultIffHalted := rfl
  budgetLegal := Nat.zero_le _
  haltedBetweenTicks := fun _ => rfl

end Sys2Proof.Machine
end

section
/-! PROOFS. The Step, the faults it raises and the halt (spec/30_encoding.md R60, spec/60_exceptions.md section 1). -/

namespace Sys2Proof.Machine

/-! ### The three branches of a Step -/

theorem coreStep_of_out_of_range {s : State} (hpc : 0xFFE < s.pc.toNat) :
    coreStep s = .next (s.clearResults.raise .fetchOutOfRange none) := by
  simp [coreStep, fetchInRange, Nat.not_le.mpr hpc]

theorem coreStep_of_instr {s : State} {i : Instr} (hpc : s.pc.toNat ≤ 0xFFE)
    (hd : decode s.fetchWord = .instr i) : coreStep s = exec i s.clearResults := by
  simp [coreStep, fetchInRange, hpc, hd]

/-- Settles O10: one branch each. -/
theorem stepSequence : Obligations.StepSequence :=
  fun _ => ⟨coreStep_of_out_of_range, fun hpc _ hd => coreStep_of_illegal hpc hd,
    fun hpc _ hd => coreStep_of_instr hpc hd⟩

/-- Settles O14: the start of the Tick does not change `pc`, and the raise keeps it. -/
theorem fetchOutOfRangeRaised : Obligations.FetchOutOfRangeRaised := by
  intro s hrun hpc
  rw [step_running hrun, coreStep_of_out_of_range (s := s.beginTick) hpc]
  exact ⟨_, rfl, rfl, rfl, rfl⟩

/-! ### The words of the instructions that raise -/

theorem encode_call (nnn : Addr) : encode (.call nnn) = wordNNN 2 nnn :=
  word_ext_nat <| by
    have := nnn.isLt
    rw [encode, encodeNNN_toNat, wordNNN, BitVec.toNat_ofNat, Nat.mod_eq_of_lt (by omega)]
    rfl

theorem encodeXKK_eq_wordXKK (c x : Nibble) (kk : Byte) : encodeXKK c x kk = wordXKK c.toNat x kk.toNat :=
  word_ext_nat <| by
    have hc := c.isLt
    have hx := x.isLt
    have hk := kk.isLt
    rw [encodeXKK_toNat, wordXKK, BitVec.toNat_ofNat, Nat.mod_eq_of_lt (by omega)]

/-- Settles O15: the first test of each of the two decides. -/
theorem stackFaultsRaised : Obligations.StackFaultsRaised := by
  refine ⟨fun s nnn hsp => ?_, fun s hsp => if_pos hsp⟩
  rw [← encode_call]
  exact if_pos hsp

/-- Settles O16: the first test of each of the two decides. -/
theorem keyIndexFaultRaised : Obligations.KeyIndexFaultRaised := by
  refine fun s x hx => ⟨?_, ?_⟩
  · exact (if_pos hx).trans (encodeXKK_eq_wordXKK 0xE x 0x9E ▸ rfl)
  · exact (if_pos hx).trans (encodeXKK_eq_wordXKK 0xE x 0xA1 ▸ rfl)

/-! ### Precision -/

/-- Settles O17: a Step halts a running block only by a raise, on the cleared state; an instruction records its own
word, which is the word fetched. -/
theorem faultsArePrecise : Obligations.FaultsArePrecise := by
  intro s t hrun hstep hhalt
  obtain ⟨-, rfl⟩ | ⟨-, -, rfl⟩ | ⟨-, i, hd, hexec⟩ := coreStep_cases hstep
  · exact ⟨_, _, rfl, by simp, by simp⟩
  · exact ⟨_, _, rfl, by simp, by simp⟩
  · obtain ⟨k, -, hk, rfl⟩ | ⟨-, hhalted, -⟩ := exec_keeps i _ t hexec
    · exact ⟨k, _, rfl, by simp [hk], by simp [encode_eq_of_decode hd]⟩
    · have hrun' : t.halted = false := hhalted.trans hrun
      simp [hrun'] at hhalt

/-! ### The halt -/

/-- From the second step on, `redraw_out` is cleared already. -/
theorem run_succ_of_halted {s : State} (h : s.halted = true) (k : Nat) :
    Host.Core.run core (k + 1) s = .next s.haltedTick := by
  induction k generalizing s with
  | zero => exact run_succ_next 0 (step_halted h)
  | succ k ih => exact (run_succ_next (k + 1) (step_halted h)).trans (ih (s := s.haltedTick) h)

/-- Settles O18: any number of steps is the halted Tick, and a Tick with any parameters tests the halt first. -/
theorem haltedIsFrozen : Obligations.HaltedIsFrozen :=
  fun _ h => ⟨run_succ_of_halted h, fun _ _ _ => if_pos h⟩

end Sys2Proof.Machine
end

section
/-! PROOFS. A step and the Tick around it (spec/30_encoding.md R60, spec/60_exceptions.md R116, R117): the instruction
it runs, the latch, the timers, when the Tick returns, and that the steps refine the Tick of the spec. -/

namespace Sys2Proof.Machine

/-! ### A step runs the instruction at `pc` -/

/-- Settles O11: the start of the Tick changes neither `pc` nor memory, so the Step fetches those two bytes. -/
theorem stepRunsDecodedInstruction : Obligations.StepRunsDecodedInstruction := by
  intro s i rest hrun hpc hd
  rw [setWidth_add_one, ← BitVec.ofNat_toNat, decodeBytes_eq_instr_iff] at hd
  refine ⟨⟨encode i, spelledBy_iff_encode_eq.mpr rfl⟩, ?_⟩
  rw [step_running hrun, coreStep_of_instr (s := s.beginTick) hpc hd]
  rfl

/-! ### What a Step leaves to the driver -/

/-- No Step writes the latch, `redraw_out` or the driver's own fields; a raise writes none of them either. -/
theorem coreStep_keeps_driver {s t : State} (h : coreStep s = .next t) :
    t.K = s.K ∧ t.redrawOut = s.redrawOut ∧ t.left = s.left ∧ t.ticks = s.ticks := by
  obtain ⟨k, w, rfl⟩ | ⟨hK, -, -, hout, hleft, hticks⟩ := coreStep_keeps h
  · exact ⟨rfl, rfl, rfl, rfl⟩
  · exact ⟨hK, hout, hleft, hticks⟩

/-- A step from a running state, given the Step it runs. -/
theorem eq_endStep_of_step {s t u : State} (hrun : s.halted = false) (hu : coreStep s.beginTick = .next u)
    (h : step s = .next t) : t = u.endStep := by
  rw [step_running hrun, hu] at h
  injection h with h
  exact h.symm

/-- Settles O19: the start of the Tick replaces the latch and counts the Tick, and neither the Step nor the end of
the Tick writes them. -/
theorem latchIsReplacedOncePerTick : Obligations.LatchIsReplacedOncePerTick := by
  intro s t hrun h
  obtain ⟨hhalt, -⟩ | ⟨-, u, hu, rfl⟩ := step_cases h
  · simp [hrun] at hhalt
  · obtain ⟨hK, -, -, hticks⟩ := coreStep_keeps_driver hu
    exact ⟨hK, hticks⟩

/-! ### The timers -/

theorem countDown_toNat (v : Byte) : (countDown v).toNat = if v = 0 then 0 else v.toNat - 1 := by
  unfold countDown
  split <;> bv_omega

/-- A budget of one Step or none ends the Tick, so only the end of a Tick leaves no budget. -/
theorem endStep_left_eq_zero_iff {u : State} : u.endStep.left = 0 ↔ u.tickOver = true := by
  rw [State.endStep_left]
  by_cases hover : u.tickOver = true
  · simp [hover]
  · have hleft : ¬u.left ≤ 1 := fun hle => hover (by simp [State.tickOver, hle])
    rw [if_neg hover]
    simp only [hover, iff_false, Bool.false_eq_true]
    omega

/-- Settles O20: the end of a Step counts the timers down exactly when it ends a Tick without a fault. -/
theorem timersCountDownOncePerTick : Obligations.TimersCountDownOncePerTick := by
  refine ⟨fun s t u hrun hu hstep => ?_, fun s t hhalt hstep => ?_⟩
  · obtain rfl := eq_endStep_of_step hrun hu hstep
    rw [Ne, endStep_left_eq_zero_iff, State.endStep_DT, State.endStep_ST]
    refine ⟨fun hh hover => ?_, fun hh hover => ?_, fun hh => ?_⟩
    · simp [hh, hover, countDown_toNat]
    · simp [hover]
    · simp [hh]
  · rw [step_halted hhalt] at hstep
    injection hstep with hstep
    exact hstep ▸ ⟨rfl, rfl⟩

/-! ### When a Tick returns -/

theorem tickOver_iff {u : State} :
    u.tickOver = true ↔ (u.halted ∨ u.blocked ∨ (u.redraw ∧ Config.breakOnRedraw)) ∨ u.left ≤ 1 := by
  simp [State.tickOver]
  tauto

/-- Settles O21: the loop is left for one of the three signals, or with the last of the budget, where one less is 0
as well. -/
theorem tickReturns : Obligations.TickReturns := by
  intro s t u hrun hu hstep
  obtain rfl := eq_endStep_of_step hrun hu hstep
  obtain ⟨-, hout, hleft, -⟩ := coreStep_keeps_driver hu
  constructor
  · rw [State.endStep_left, ← hleft]
    by_cases hsignal : u.halted ∨ u.blocked ∨ (u.redraw ∧ Config.breakOnRedraw)
    · rw [if_pos (tickOver_iff.mpr (.inl hsignal)), if_pos hsignal]
    · rw [if_neg hsignal]
      by_cases hlast : u.left ≤ 1
      · rw [if_pos (tickOver_iff.mpr (.inr hlast))]
        omega
      · rw [if_neg (mt tickOver_iff.mp (not_or.mpr ⟨hsignal, hlast⟩))]
  · rw [State.endStep_redrawOut, hout, State.beginTick_redrawOut]

/-! ### The steps refine the Tick

The Tick of the spec does not touch the driver's own fields; `step` keeps its place in the Tick in them. A state of
the Tick, with those fields filled in, is a state of the step machine. -/

/-- The state of the Tick as the step machine holds it, with `left` Steps of the budget to go. -/
def State.inFlight (s : State) (left ticks : Nat) : State := { s with left := left, ticks := ticks }

/-- The answer of a Step, with the driver's fields filled in. -/
def inFlightResult (left ticks : Nat) : Result → Result
  | .next s => .next (s.inFlight left ticks)
  | .fault r => .fault r
  | .refused r => .refused r

/-- No instruction reads the driver's fields. -/
theorem exec_inFlight (i : Instr) (s : State) (left ticks : Nat) :
    exec i (s.inFlight left ticks) = inFlightResult left ticks (exec i s) := by
  cases i
  case ret | call | skp | sknp =>
    simp only [exec, execRet, execCall, execSkp, execSknp, apply_ite (inFlightResult left ticks)]
    rfl
  all_goals rfl

theorem coreStep_inFlight (s : State) (left ticks : Nat) :
    coreStep (s.inFlight left ticks) = inFlightResult left ticks (coreStep s) := by
  have hfetch : (s.inFlight left ticks).fetchWord = s.fetchWord := rfl
  by_cases hpc : s.pc.toNat ≤ 0xFFE
  · cases hd : decode s.fetchWord with
    | instr i =>
      rw [coreStep_of_instr hpc hd, coreStep_of_instr (s := s.inFlight left ticks) hpc hd]
      exact exec_inFlight i s.clearResults left ticks
    | illegal why =>
      rw [coreStep_of_illegal hpc hd, coreStep_of_illegal (s := s.inFlight left ticks) hpc hd]
      rfl
  · rw [coreStep_of_out_of_range (Nat.not_le.mp hpc),
      coreStep_of_out_of_range (s := s.inFlight left ticks) (Nat.not_le.mp hpc)]
    rfl

/-- Inside a Tick a step is a Step and the end of that Step. -/
theorem step_inFlight {s u : State} (hrun : s.halted = false) (hu : coreStep s = .next u) (n ticks : Nat) :
    step (s.inFlight (n + 1) ticks) = .next (u.inFlight (n + 1) ticks).endStep := by
  rw [step_running (s := s.inFlight (n + 1) ticks) hrun]
  have hbegin : (s.inFlight (n + 1) ticks).beginTick = s.inFlight (n + 1) ticks := rfl
  rw [hbegin, coreStep_inFlight, hu]
  rfl

/-! The end of such a step, as the loop of the Tick goes on from the same Step. -/

theorem endStep_inFlight_of_halted {u : State} (hhalt : u.halted = true) (hredraw : u.redraw = false)
    (left ticks : Nat) : (u.inFlight left ticks).endStep = u.inFlight 0 ticks := by
  simp [State.endStep, State.tickOver, State.inFlight, hhalt, hredraw]

theorem endStep_inFlight_of_over {u : State} {left ticks : Nat} (hrun : u.halted = false)
    (hover : (u.inFlight left ticks).tickOver = true) :
    (u.inFlight left ticks).endStep = u.noteRedraw.decrementTimers.inFlight 0 ticks := by
  have hcount : ((u.inFlight left ticks).tickOver && !(u.inFlight left ticks).halted) = true := by
    rw [hover, show (u.inFlight left ticks).halted = false from hrun]
    rfl
  rw [State.endStep, hcount, hover]
  rfl

theorem endStep_inFlight_of_not_over {u : State} {n ticks : Nat}
    (hover : (u.inFlight (n + 1) ticks).tickOver = false) :
    (u.inFlight (n + 1) ticks).endStep = u.noteRedraw.inFlight n ticks := by
  simp only [State.endStep, hover]
  rfl

/-- What one round of the loop does (R116): the Tick ends with a fault, ends with a signal, or goes on. -/
theorem tickLoop_succ_cases {b : Bool} {n : Nat} {s t : State} (h : tickLoop b (n + 1) s = .next t) :
    ∃ u, coreStep s = .next u ∧
      (u.halted = true ∧ t = u ∨
        u.halted = false ∧ (u.blocked || (u.redraw && b)) = true ∧ t = u.noteRedraw.decrementTimers ∨
        u.halted = false ∧ (u.blocked || (u.redraw && b)) = false ∧ tickLoop b n u.noteRedraw = .next t) := by
  rw [tickLoop] at h
  split at h
  case h_1 u hu =>
    refine ⟨u, hu, ?_⟩
    split_ifs at h with hhalt hsignal
    · injection h with h
      exact .inl ⟨hhalt, h.symm⟩
    · injection h with h
      exact .inr (.inl ⟨by simpa using hhalt, hsignal, h.symm⟩)
    · exact .inr (.inr ⟨by simpa using hhalt, by simpa using hsignal, h⟩)
  case h_2 => cases h
  case h_3 => cases h

theorem tickLoop_left {b : Bool} {n : Nat} {s t : State} (h : tickLoop b n s = .next t) : t.left = s.left := by
  induction n generalizing s with
  | zero =>
    injection h with h
    exact h ▸ rfl
  | succ n ih =>
    obtain ⟨u, hu, hcases⟩ := tickLoop_succ_cases h
    obtain ⟨-, -, hleft, -⟩ := coreStep_keeps_driver hu
    obtain ⟨-, rfl⟩ | ⟨-, -, rfl⟩ | ⟨-, -, hloop⟩ := hcases
    · exact hleft
    · exact hleft
    · exact (ih hloop).trans hleft

/-- A signal ends the Tick, and so does the last Step of the budget. -/
theorem tickOver_inFlight {u : State} {n ticks : Nat} (hrun : u.halted = false) :
    (u.inFlight (n + 1) ticks).tickOver =
      (decide (n = 0) || (u.blocked || (u.redraw && Config.breakOnRedraw))) := by
  simp [State.tickOver, State.inFlight, hrun, Bool.or_assoc]

/-- One round of the loop is one step: it ends the Tick where the loop does, else it goes on from where the loop
goes on. -/
theorem step_inFlight_of_tickLoop {n : Nat} {s t : State} (hrun : s.halted = false) (ticks : Nat)
    (h : tickLoop Config.breakOnRedraw (n + 1) s = .next t) :
    step (s.inFlight (n + 1) ticks) = .next (t.inFlight 0 ticks) ∨
      n ≠ 0 ∧ ∃ v, v.halted = false ∧ step (s.inFlight (n + 1) ticks) = .next (v.inFlight n ticks) ∧
        tickLoop Config.breakOnRedraw n v = .next t := by
  obtain ⟨u, hu, hcases⟩ := tickLoop_succ_cases h
  rw [step_inFlight hrun hu]
  obtain ⟨hhalt, rfl⟩ | ⟨hgo, hsignal, rfl⟩ | ⟨hgo, hsignal, hloop⟩ := hcases
  · obtain ⟨k, w, rfl, -⟩ := faultsArePrecise s t hrun hu hhalt
    exact .inl (congrArg _ (endStep_inFlight_of_halted rfl rfl _ _))
  · have hover : (u.inFlight (n + 1) ticks).tickOver = true := by simp [tickOver_inFlight hgo, hsignal]
    exact .inl (congrArg _ (endStep_inFlight_of_over hgo hover))
  · by_cases hn : n = 0
    · subst hn
      injection hloop with hloop
      subst hloop
      have hover : (u.inFlight 1 ticks).tickOver = true := by simp [tickOver_inFlight hgo]
      exact .inl (congrArg _ (endStep_inFlight_of_over hgo hover))
    · have hover : (u.inFlight (n + 1) ticks).tickOver = false := by simp [tickOver_inFlight hgo, hsignal, hn]
      exact .inr ⟨hn, u.noteRedraw, hgo, congrArg _ (endStep_inFlight_of_not_over hover), hloop⟩

/-- The simulation: the loop with a budget of `n + 1` Steps is a run of at most that many steps. -/
theorem exists_run_of_tickLoop {n : Nat} {s t : State} (hrun : s.halted = false) (ticks : Nat)
    (h : tickLoop Config.breakOnRedraw (n + 1) s = .next t) :
    ∃ k, 1 ≤ k ∧ k ≤ n + 1 ∧
      Host.Core.run core k (s.inFlight (n + 1) ticks) = .next (t.inFlight 0 ticks) := by
  induction n generalizing s with
  | zero =>
    obtain hstep | ⟨hn, -⟩ := step_inFlight_of_tickLoop hrun ticks h
    · exact ⟨1, le_rfl, le_rfl, run_succ_next 0 hstep⟩
    · exact absurd rfl hn
  | succ n ih =>
    obtain hstep | ⟨-, v, hgo, hstep, hloop⟩ := step_inFlight_of_tickLoop hrun ticks h
    · exact ⟨1, le_rfl, by omega, run_succ_next 0 hstep⟩
    · obtain ⟨k, hpos, hle, hk⟩ := ih hgo hloop
      exact ⟨k + 1, by omega, by omega, (run_succ_next k hstep).trans hk⟩

/-- The state the loop of a Tick starts from (R116): the latch replaced, `redraw_out` cleared. -/
def State.tickStart (s : State) (keys : BitVec 16) : State := { s with K := keys, redrawOut := false }

theorem tick_running {s : State} (hrun : s.halted = false) (n : Nat) (b : Bool) (keys : BitVec 16) :
    tick n b keys s = tickLoop b n (s.tickStart keys) :=
  if_neg (by simp [hrun])

theorem step_eq_of_beginTick_eq {s t : State} (hs : s.halted = false) (ht : t.halted = false)
    (h : s.beginTick = t.beginTick) : step s = step t := by
  rw [step_running hs, step_running ht, h]

theorem beginTick_between_ticks {s : State} (hleft : s.left = 0) :
    s.beginTick = (s.tickStart (Config.keys s.ticks)).inFlight Config.instrPerTick (s.ticks + 1) := by
  simp [State.beginTick, State.inFlight, State.tickStart, hleft]

/-- Between two Ticks a step begins the next one, as the Tick of the spec does. -/
theorem step_between_ticks {s : State} (hrun : s.halted = false) (hleft : s.left = 0) :
    step s = step ((s.tickStart (Config.keys s.ticks)).inFlight Config.instrPerTick (s.ticks + 1)) :=
  step_eq_of_beginTick_eq hrun hrun (beginTick_between_ticks hleft)

/-- Settles O22: the simulation from the state the Tick begins at, whose first step is that of the state before. -/
theorem stepsRefineTheTick : Obligations.StepsRefineTheTick := by
  intro s t hrun hleft h
  rw [tick_running hrun] at h
  have htleft : t.left = 0 := (tickLoop_left h).trans hleft
  obtain ⟨k, hpos, hle, hk⟩ :=
    exists_run_of_tickLoop (s := s.tickStart (Config.keys s.ticks)) hrun (s.ticks + 1) h
  obtain ⟨k, rfl⟩ := Nat.exists_eq_succ_of_ne_zero (Nat.pos_iff_ne_zero.mp hpos)
  refine ⟨k + 1, hpos, hle, (run_succ_congr k (step_between_ticks hrun hleft)).trans (hk.trans ?_)⟩
  rw [State.inFlight, ← htleft]

end Sys2Proof.Machine
end

section
/-! PROOFS. Memory: the canonical form, effective addresses, and the stores and loads of registers
(spec/20_memory.md sections 1, 4 and 5, spec/42_index_memory.md sections 2 and 3). -/

namespace Sys2Proof.Machine

/-! ### The canonical form determines the list (log 15) -/

theorem risesFrom_cons {lo a : Nat} {v : Byte} {m : Memory} :
    risesFrom lo ((a, v) :: m) = true ↔
      lo ≤ a ∧ a < 4096 ∧ v ≠ initialByte a ∧ risesFrom (a + 1) m = true := by
  simp [risesFrom, and_assoc]

/-- Below its first entry a rising list holds nothing. -/
theorem lookupByte_of_lt {lo c : Nat} {m : Memory} (h : risesFrom lo m = true) (hc : c < lo) :
    lookupByte m c = initialByte c := by
  induction m generalizing lo with
  | nil => rfl
  | cons e m ih =>
    obtain ⟨b, w⟩ := e
    obtain ⟨hlo, -, -, hm⟩ := risesFrom_cons.mp h
    have hne : b ≠ c := by omega
    rw [lookupByte, if_neg hne, ih hm (by omega)]

/-- A canonical memory reads its first entry where every list that starts higher reads the reset content. -/
theorem lookupByte_head_ne {lo a : Nat} {v : Byte} {m m' : Memory} (h : risesFrom lo ((a, v) :: m) = true)
    (h' : risesFrom (a + 1) m' = true) : lookupByte ((a, v) :: m) a ≠ lookupByte m' a := by
  obtain ⟨-, -, hv, -⟩ := risesFrom_cons.mp h
  rw [lookupByte, if_pos rfl, lookupByte_of_lt h' (Nat.lt_succ_self a)]
  exact hv

/-- Rising lists that read the same have the same first entry, and without it they still read the same. -/
theorem eq_of_lookupByte_eq {lo : Nat} {m m' : Memory} (h : risesFrom lo m = true) (h' : risesFrom lo m' = true)
    (heq : ∀ a, a < 4096 → lookupByte m a = lookupByte m' a) : m = m' := by
  induction m generalizing lo m' with
  | nil =>
    cases m' with
    | nil => rfl
    | cons e' m' =>
      obtain ⟨b, w⟩ := e'
      obtain ⟨-, hb, -, -⟩ := risesFrom_cons.mp h'
      exact absurd (heq b hb).symm (lookupByte_head_ne (m' := []) h' rfl)
  | cons e m ih =>
    obtain ⟨a, v⟩ := e
    obtain ⟨-, ha, hv, hm⟩ := risesFrom_cons.mp h
    cases m' with
    | nil => exact absurd (heq a ha) (lookupByte_head_ne (m' := []) h rfl)
    | cons e' m' =>
      obtain ⟨b, w⟩ := e'
      obtain ⟨-, hb, hw, hm'⟩ := risesFrom_cons.mp h'
      obtain hlt | rfl | hgt := Nat.lt_trichotomy a b
      · have hup : risesFrom (a + 1) ((b, w) :: m') = true := risesFrom_cons.mpr ⟨hlt, hb, hw, hm'⟩
        exact absurd (heq a ha) (lookupByte_head_ne h hup)
      · have hvw : v = w := by simpa [lookupByte] using heq a ha
        have htail : m = m' := ih hm hm' fun c hc => by
          by_cases hca : a = c
          · subst hca
            rw [lookupByte_of_lt hm (Nat.lt_succ_self a), lookupByte_of_lt hm' (Nat.lt_succ_self a)]
          · simpa [lookupByte, hca] using heq c hc
        rw [hvw, htail]
      · have hup : risesFrom (b + 1) ((a, v) :: m) = true := risesFrom_cons.mpr ⟨hgt, ha, hv, hm⟩
        exact absurd (heq b hb).symm (lookupByte_head_ne h' hup)

/-- Settles O7: the 4096 addresses are the keys a canonical list can hold. -/
theorem canonicalMemoryIsUnique : Obligations.CanonicalMemoryIsUnique := by
  refine fun m m' h h' heq => eq_of_lookupByte_eq h h' fun a ha => ?_
  have hread := heq (BitVec.ofNat 12 a)
  rwa [readByte, readByte, BitVec.toNat_ofNat, Nat.mod_eq_of_lt ha] at hread

/-! ### Effective addresses -/

/-- Settles O8: the sum is reduced modulo 4096, which reduces `I` as well. -/
theorem effectiveAddressWraps : Obligations.EffectiveAddressWraps := by
  intro I k
  rw [effAddr_toNat]
  omega

/-- `EA(k + 1)` is the address after `EA(k)`, modulo 4096. -/
theorem effAddr_succ (I : Word) (k : Nat) : effAddr I (k + 1) = BitVec.ofNat 12 ((effAddr I k).toNat + 1) := by
  rw [effAddr, ← Nat.add_assoc, effAddr, BitVec.toNat_ofNat]
  apply BitVec.eq_of_toNat_eq
  simp

/-! ### The address register -/

theorem five_mul_byteOperand_toNat (v : Byte) : (5 * byteOperand v).toNat = 5 * v.toNat := by
  have hv := v.isLt
  rw [BitVec.toNat_mul, byteOperand_toNat]
  exact Nat.mod_eq_of_lt (by simp; omega)

/-- Settles O39: a 16-bit sum is modulo 65536, and 5 times a byte fits 16 bits. -/
theorem addressRegisterArithmetic : Obligations.AddressRegisterArithmetic := by
  refine fun s x => ⟨⟨s.I + byteOperand (s.reg x), rfl, ?_⟩, ⟨5 * byteOperand (s.reg x), rfl, ?_⟩⟩
  · rw [BitVec.toNat_add, byteOperand_toNat]
  · exact five_mul_byteOperand_toNat _

/-! ### Stores and loads of registers -/

/-- The bytes `Fx55` leaves: register `k` at `EA(k)`. -/
theorem readByte_storeRegsTo (m : Memory) (I : Word) (V : RegFile) {x : Nibble} {k : Nat} (hk : k ≤ x.toNat) :
    readByte (storeRegsTo m I V (regCount x)) (effAddr I k) = readReg V (BitVec.ofNat 4 k) := by
  have hx := x.isLt
  exact readByte_writeBytes_effAddr m I (countedReg V) (by rw [regCount]; omega) (Nat.lt_succ_of_le hk)

/-- Settles O41: each of the bytes is read back, and no other is written. -/
theorem storeRegisters : Obligations.StoreRegisters := by
  refine fun s x => ⟨storeRegsTo s.mem s.I s.V (regCount x), rfl, fun r hr => ?_, fun a ha => ?_⟩
  · rw [readByte_storeRegsTo _ _ _ hr, BitVec.ofNat_toNat, BitVec.setWidth_eq]
  · exact readByte_writeBytes_outside s.mem _ _ _ a fun k hk => ha k (Nat.le_of_lt_succ hk)

/-- Settles O42: a load of `x + 1` registers. -/
theorem loadRegisters : Obligations.LoadRegisters := by
  refine fun s x => ⟨loadRegsFrom s.mem s.I (regCount x) s.V, rfl, fun r => ?_⟩
  rw [readReg_loadRegsFrom (n := regCount x) _ _ _ x.isLt]
  simp only [regCount, Nat.lt_succ_iff]

/-- The word fetched at an address of memory. -/
theorem fetchWord_at_toNat (s : State) (a : Addr) :
    (State.fetchWord { s with pc := a.setWidth 16 }).toNat =
      (readByte s.mem a).toNat * 256 + (readByte s.mem (BitVec.ofNat 12 (a.toNat + 1))).toNat := by
  have hpc : ((a.setWidth 16 : Word)).toNat = a.toNat := addrOperand_toNat a
  rw [State.fetchWord, wordOfBytes_toNat, hpc, BitVec.ofNat_toNat, BitVec.setWidth_eq]

/-- Settles O9: the two bytes fetched are the two bytes stored. -/
theorem fetchSeesTheStore : Obligations.FetchSeesTheStore := by
  intro s t x k h hk _
  injection h with h
  subst h
  have hlow := readByte_storeRegsTo s.mem s.I s.V (Nat.le_of_succ_le hk)
  have hhigh := readByte_storeRegsTo s.mem s.I s.V hk
  rw [fetchWord_at_toNat, ← effAddr_succ]
  exact congrArg₂ (fun hi lo : Byte => hi.toNat * 256 + lo.toNat) hlow hhigh

end Sys2Proof.Machine
end

section
/-! PROOFS. How a program comes to run: a word placed where the next step fetches (spec/30_encoding.md R50; log 14),
and Load (spec/70_reset_and_hazards.md R128, spec/60_exceptions.md section 4). -/

namespace Sys2Proof.Machine

/-! ### A placed word -/

theorem tableWord_sixteen {w : Nat} (hw : w < 65536) : tableWord 16 w = BitVec.ofNat 16 w := by
  rw [tableWord, Nat.mod_eq_of_lt (show w < 2 ^ 16 from hw)]

theorem decodeTableWord_sixteen_iff {w : Nat} (hw : w < 65536) {i : Instr} :
    decodeTableWord 16 w = some i ↔ decode (BitVec.ofNat 16 w) = .instr i := by
  rw [decodeTableWord, if_neg (by decide), tableWord_sixteen hw, decodeBytes, wordOfBytes_bytes]
  cases decode (BitVec.ofNat 16 w) <;> simp

/-- Where the word is placed is fetchable: `pc` itself, or the entry point. -/
theorem withFetchWord_pc_le (s : State) (nbits w : Nat) : (s.withFetchWord nbits w).pc.toNat ≤ 0xFFE := by
  show (if fetchInRange s.pc then s.pc else 0x200).toNat ≤ 0xFFE
  split
  case isTrue h => exact of_decide_eq_true h
  case isFalse => decide

/-- Both bytes of a fetchable word are read back, since its two addresses differ. -/
theorem withFetchWord_fetchWord (s : State) (nbits w : Nat) :
    (s.withFetchWord nbits w).fetchWord = tableWord nbits w := by
  have hpc := withFetchWord_pc_le s nbits w
  have hne : BitVec.ofNat 12 (s.withFetchWord nbits w).pc.toNat ≠
      BitVec.ofNat 12 ((s.withFetchWord nbits w).pc.toNat + 1) := by bv_omega
  have hhigh := (readByte_writeByte_ne (writeByte s.mem _ (highByte (tableWord nbits w)))
    (lowByte (tableWord nbits w)) hne).trans (readByte_writeByte_self _ _ _)
  have hlow := readByte_writeByte_self (writeByte s.mem
    (BitVec.ofNat 12 (s.withFetchWord nbits w).pc.toNat) (highByte (tableWord nbits w)))
    (BitVec.ofNat 12 ((s.withFetchWord nbits w).pc.toNat + 1)) (lowByte (tableWord nbits w))
  exact (congrArg₂ wordOfBytes hhigh hlow).trans (wordOfBytes_bytes _)

/-- Settles O12: the word placed is fetched, and the table's number of it decodes as the word does. -/
theorem placedWordIsFetched : Obligations.PlacedWordIsFetched :=
  fun s w hw => ⟨rfl, withFetchWord_pc_le s 16 w,
    (withFetchWord_fetchWord s 16 w).trans (tableWord_sixteen hw), fun _ => decodeTableWord_sixteen_iff hw⟩

/-! ### Load -/

/-- Memory after Load by ranges: glyphs below 80, the image from 0x200, and 0 elsewhere. -/
theorem readByte_imageMemory_cases {image : List Byte} (hlen : image.length ≤ 3584) (a : Addr) :
    readByte (imageMemory image) a =
      if a.toNat < 80 then glyphTable.getD a.toNat 0
      else if 0x200 ≤ a.toNat ∧ a.toNat < 0x200 + image.length then image.getD (a.toNat - 0x200) 0
      else 0 := by
  by_cases himage : 0x200 ≤ a.toNat ∧ a.toNat < 0x200 + image.length
  · obtain ⟨hlo, hhi⟩ := himage
    have hj : a.toNat - 0x200 < image.length := by omega
    have ha : a = BitVec.ofNat 12 (0x200 + (a.toNat - 0x200)) := by
      rw [Nat.add_sub_cancel' hlo, BitVec.ofNat_toNat, BitVec.setWidth_eq]
    rw [if_neg (by omega), if_pos ⟨hlo, hhi⟩, List.getD_eq_getElem image 0 hj]
    conv_lhs => rw [ha]
    exact readByte_imageMemory hlen hj
  · have houtside : readByte (imageMemory image) a = initialByte a.toNat :=
      readByte_writeBytes_outside [] _ _ _ a fun k hk hak => himage <| by
        have hmod : a.toNat = (0x200 + k) % 4096 := (congrArg BitVec.toNat hak).trans (BitVec.toNat_ofNat ..)
        omega
    rw [houtside, initialByte, if_neg himage]
    split
    case isTrue => rfl
    case isFalse h => exact List.getD_eq_default _ _ (Nat.not_lt.mp h)

/-- What Load leaves meets the invariant: the reset state does, and placing the image keeps memory canonical. -/
theorem loaded_inv (image : List Byte) (ticks draws : Nat) :
    State.Inv { State.reset with mem := imageMemory image, ticks := ticks, draws := draws } :=
  { invariantAtReset with memCanonical := wf_writeBytes _ _ _ wf_nil }

theorem readReg_replicate_zero (r : Nibble) : readReg (Vector.replicate 16 0) r = 0 :=
  Vector.getElem_replicate ..

/-- Settles O58: every field but memory has its reset value, and memory is read range by range. -/
theorem loadResets : Obligations.LoadResets := by
  intro s image hlen
  refine ⟨_, load_of_length_le s hlen, readReg_replicate_zero, rfl, rfl, rfl, fun j hj => ?_, rfl, rfl,
    readByte_imageMemory_cases hlen, pixel_clearFB, rfl, rfl, rfl, loaded_inv image _ _⟩
  exact (Vector.getElem?_eq_some_iff).mpr ⟨hj, Vector.getElem_replicate ..⟩

/-- Settles O60: Load decides by the length alone. -/
theorem loadAgain : Obligations.LoadAgain := by
  refine ⟨fun s image hlen => ?_, fun s image hlen => ?_, rfl⟩
  · rw [State.afterLoad, load_of_lt_length s hlen]
  · rw [State.afterLoad, load_of_length_le s hlen]
    exact ⟨rfl, rfl, rfl⟩

end Sys2Proof.Machine
end

section
/-! PROOFS. Call and return (spec/40_flow.md sections 2, 3 and 5). -/

namespace Sys2Proof.Machine

/-! ### The branch of each that has an effect -/

theorem exec_call_of_lt {s : State} (nnn : Addr) (hsp : s.sp.toNat < 16) :
    exec (.call nnn) s = .next ((s.push s.pc).jump (addrOperand nnn)) := by
  have hfull : s.sp ≠ 16 := by bv_omega
  have hlegal : ¬16 < s.sp.toNat := by omega
  exact (if_neg hfull).trans (if_neg hlegal)

theorem exec_ret_of_pos {s : State} (hpos : 0 < s.sp.toNat) (hsp : s.sp.toNat ≤ 16) :
    exec .ret s = .next (s.pop.jump (s.topEntry + 2)) := by
  have hempty : s.sp ≠ 0 := by bv_omega
  exact (if_neg hempty).trans (if_neg (Nat.not_lt.mpr hsp))

/-- The entry a pop reads lies in the stack. -/
theorem getElem?_topEntry {s : State} (hpos : 0 < s.sp.toNat) (hsp : s.sp.toNat ≤ 16) :
    s.stack[s.sp.toNat - 1]? = some s.topEntry := by
  have hj : s.sp.toNat - 1 < 16 := by omega
  simp [State.topEntry, Vector.getD, hj]

/-- Settles O24: with 1 to 16 entries in use there is a top entry, which `00EE` pops. -/
theorem retReturns : Obligations.RetReturns := by
  intro s hpos hsp
  exact ⟨s.topEntry, s.sp - 1, getElem?_topEntry hpos hsp, by bv_omega, exec_ret_of_pos hpos hsp⟩

/-- Settles O26: a push sets the entry at `sp`, which the 16 entries have. -/
theorem callPushes : Obligations.CallPushes := by
  intro s nnn hsp
  refine ⟨_, _, _, exec_call_of_lt nnn hsp, ?_, addrOperand_toNat nnn, ?_, fun j hj => ?_⟩
  · show (s.sp + 1).toNat = s.sp.toNat + 1
    bv_omega
  · exact Vector.getElem?_setIfInBounds_self_of_lt hsp
  · exact Vector.getElem?_setIfInBounds_ne hj.symm

/-- Settles O29: the entry `2nnn` pushed is the one a `00EE` with the same `sp` pops. -/
theorem callThenRet : Obligations.CallThenRet := by
  intro s t u nnn hsp hcall husp hustack
  rw [exec_call_of_lt nnn hsp] at hcall
  injection hcall with hcall
  subst hcall
  have husp' : u.sp = s.sp + 1 := husp
  have hu : u.sp.toNat = s.sp.toNat + 1 := by bv_omega
  have hpush : (s.stack.setIfInBounds s.sp.toNat s.pc)[s.sp.toNat]? = some s.pc :=
    Vector.getElem?_setIfInBounds_self_of_lt hsp
  have htop : u.topEntry = s.pc := by
    have hread := getElem?_topEntry (s := u) (by omega) (by omega)
    rw [hu, Nat.add_sub_cancel] at hread
    exact Option.some.inj (hread.symm.trans (hustack.trans hpush))
  have hpop : u.sp - 1 = s.sp := by bv_omega
  rw [exec_ret_of_pos (by omega) (by omega), htop, ← hpop]
  rfl

end Sys2Proof.Machine
end

section
/-! PROOFS. The bitwise operations, the shifts, the flag written last and the recovered difference
(spec/41_alu.md sections 3 and 4). -/

namespace Sys2Proof.Machine

/-! ### Bitwise operations -/

/-- What R77 to R79 share: one register put, bit by bit from the bits of two. -/
theorem exists_regFile_of_bitwise {i : Instr} {s : State} {x : Nibble} {v a b : Byte} {op : Bool → Bool → Bool}
    (hbits : ∀ k, v.getLsbD k = op (a.getLsbD k) (b.getLsbD k))
    (h : exec i s = .next (s.setReg x v).advance) :
    ∃ V, exec i s = .next { s with V := V, pc := s.pc + 2 } ∧
      (∀ k, (readReg V x).getLsbD k = op (a.getLsbD k) (b.getLsbD k)) ∧
      ∀ r, r ≠ x → readReg V r = readReg s.V r := by
  obtain ⟨V, hexec, hresult, hrest⟩ := exists_regFile_of_setReg h
  exact ⟨V, hexec, hresult ▸ hbits, hrest⟩

/-- Settles O31: each of the three works on the bits of its operands. -/
theorem logicOperations : Obligations.LogicOperations :=
  fun _ _ _ => ⟨exists_regFile_of_bitwise (fun _ => BitVec.getLsbD_or) rfl,
    exists_regFile_of_bitwise (fun _ => BitVec.getLsbD_and) rfl,
    exists_regFile_of_bitwise (fun _ => BitVec.getLsbD_xor) rfl⟩

/-! ### Shifts -/

theorem flagByte_toNat (f : Bool) : (flagByte f).toNat = f.toNat := by
  cases f <;> rfl

theorem shiftRightFlag_toNat (v : Byte) : (shiftRightFlag v).toNat = v.toNat % 2 := by
  rw [shiftRightFlag, BitVec.getLsbD, Nat.toNat_testBit]
  simp

/-- Bit 7 is the last of 8, so nothing stands above it. -/
theorem shiftLeftFlag_toNat (v : Byte) : (shiftLeftFlag v).toNat = v.toNat / 128 := by
  have hv := v.isLt
  rw [shiftLeftFlag, BitVec.getLsbD, Nat.toNat_testBit]
  omega

theorem shiftLeft_one_toNat (v : Byte) : (v <<< 1).toNat = 2 * v.toNat % 256 := by
  rw [BitVec.toNat_shiftLeft, Nat.shiftLeft_eq]
  omega

/-- Settles O35: the result is put with the bit shifted out as its flag. -/
theorem shiftsInPlace : Obligations.ShiftsInPlace := by
  intro s x y
  constructor
  · obtain ⟨V, hexec, hflag, hresult, hrest⟩ :=
      exists_regFile_of_putWithFlag (i := .shr x y) (s := s) rfl
    refine ⟨V, hexec, ?_, fun hx => ?_, hrest⟩
    · rw [hflag, flagByte_toNat, shiftRightFlag_toNat, State.reg_eq]
    · rw [hresult hx, BitVec.toNat_ushiftRight, Nat.shiftRight_eq_div_pow, State.reg_eq]
  · obtain ⟨V, hexec, hflag, hresult, hrest⟩ :=
      exists_regFile_of_putWithFlag (i := .shl x y) (s := s) rfl
    refine ⟨V, hexec, ?_, fun hx => ?_, hrest⟩
    · rw [hflag, flagByte_toNat, shiftLeftFlag_toNat, State.reg_eq]
    · rw [hresult hx, shiftLeft_one_toNat, State.reg_eq]

/-! ### The flag is what stays in `VF` -/

/-- An instruction that puts a result and its flag, with `VF` as its destination: the result is lost. -/
theorem vf_of_putWithFlag {i : Instr} {s t : State} {v : Byte} {f : Bool} {p : Prop}
    (hput : exec i s = .next (s.putWithFlag 15 v f)) (h : exec i s = .next t) (hp : f = true ↔ p) :
    ((readReg t.V 15).toNat = 1 ↔ p) ∧ (readReg t.V 15).toNat ≤ 1 ∧
      ∀ r, r ≠ 15 → readReg t.V r = readReg s.V r := by
  rw [hput] at h
  injection h with h
  subst h
  have hflag : readReg (s.putWithFlag 15 v f).V 15 = flagByte f := readReg_writeReg_self _ _ _
  rw [hflag, flagByte_toNat, ← hp]
  refine ⟨Bool.toNat_eq_one, Bool.toNat_le f, fun r hr => ?_⟩
  exact (readReg_putWithFlag s 15 v f r).trans ((if_neg hr).trans (if_neg hr))

theorem carryFlag_iff (a b : Byte) : carryFlag a b = true ↔ 256 ≤ a.toNat + b.toNat :=
  decide_eq_true_iff

theorem noBorrowFlag_iff (a b : Byte) : noBorrowFlag a b = true ↔ b.toNat ≤ a.toNat :=
  decide_eq_true_iff

theorem shiftRightFlag_iff (v : Byte) : shiftRightFlag v = true ↔ v.toNat % 2 = 1 := by
  rw [← Bool.toNat_eq_one, shiftRightFlag_toNat]

theorem shiftLeftFlag_iff (v : Byte) : shiftLeftFlag v = true ↔ 128 ≤ v.toNat := by
  have hv := v.isLt
  rw [← Bool.toNat_eq_one, shiftLeftFlag_toNat]
  omega

/-- Settles O36: the flag of each of the five decides its clause. -/
theorem flagIsWrittenLast : Obligations.FlagIsWrittenLast := by
  rintro s t y i (rfl | rfl | rfl | rfl | rfl) h
  · exact vf_of_putWithFlag rfl h (by simp [carryFlag_iff])
  · exact vf_of_putWithFlag rfl h (by simp [noBorrowFlag_iff])
  · exact vf_of_putWithFlag rfl h (by simp [noBorrowFlag_iff])
  · exact vf_of_putWithFlag rfl h (by simp [shiftRightFlag_iff])
  · exact vf_of_putWithFlag rfl h (by simp [shiftLeftFlag_iff])

/-! ### The difference -/

/-- The difference modulo 256 and the borrow it leaves out are the whole difference. -/
theorem difference_of_putDifference {i : Instr} {s t : State} {x : Nibble} {a b : Byte} (hx : x ≠ 15)
    (hput : exec i s = .next (s.putWithFlag x (a - b) (noBorrowFlag a b))) (h : exec i s = .next t) :
    (a.toNat : Int) - b.toNat = (readReg t.V x).toNat - 256 * (1 - (readReg t.V 15).toNat) := by
  obtain ⟨V, hexec, hflag, hresult, -⟩ := exists_regFile_of_putDifference hput
  rw [hexec] at h
  injection h with h
  subst h
  have ha := a.isLt
  have hb := b.isLt
  have hmod := hresult hx
  show (a.toNat : Int) - b.toNat = (readReg V x).toNat - 256 * (1 - (readReg V 15).toNat)
  rw [hmod, hflag]
  split <;> omega

/-- Settles O37: both put the difference of two bytes with its no-borrow flag. -/
theorem differenceIsRecovered : Obligations.DifferenceIsRecovered :=
  fun _ _ _ _ hx => ⟨difference_of_putDifference hx rfl, difference_of_putDifference hx rfl⟩

end Sys2Proof.Machine
end

section
/-! PROOFS. The draw (spec/43_display.md R94, R96 and section 4). -/

namespace Sys2Proof.Machine

open Classical

/-! ### Coverage in the terms of the draw -/

theorem spriteCovers_iff {sprite : Nat → Byte} {x0 y0 : Byte} {n : Nat} {row : Fin 32} {col : Fin 64} :
    spriteCovers sprite x0 y0 n row col ↔
      ∃ r c, r < n ∧ c < 8 ∧ (sprite r).getLsbD (7 - c) = true ∧ wrapRow y0 r = row ∧ wrapCol x0 c = col := by
  simp only [spriteCovers, Fin.ext_iff, wrapRow, wrapCol, Fin.val_ofNat]

/-- A draw of at most 32 rows inverts exactly the covered pixels. -/
theorem pixel_drawRows {sprite : Nat → Byte} {x0 y0 : Byte} {n : Nat} (hn : n ≤ 32) (d : Drawing) (row : Fin 32)
    (col : Fin 64) : pixel (drawRows sprite x0 y0 n d).fb row col =
      (pixel d.fb row col ^^ decide (spriteCovers sprite x0 y0 n row col)) := by
  rw [(drawRows_spec sprite x0 y0 n hn d).1]
  simp only [spriteCovers_iff]

/-- A draw that starts without a collision ends with one exactly when a covered pixel was set. -/
theorem drawRows_hit_iff {sprite : Nat → Byte} {x0 y0 : Byte} {n : Nat} (hn : n ≤ 32) (fb : Framebuffer) :
    (drawRows sprite x0 y0 n ⟨fb, false⟩).hit = true ↔
      ∃ row col, pixel fb row col = true ∧ spriteCovers sprite x0 y0 n row col := by
  rw [(drawRows_spec sprite x0 y0 n hn _).2, Bool.false_or, decide_eq_true_iff]
  simp only [spriteCovers_iff]
  constructor
  · rintro ⟨r, c, hr, hc, hbit, hset⟩
    exact ⟨_, _, hset, r, c, hr, hc, hbit, rfl, rfl⟩
  · rintro ⟨_, _, hset, r, c, hr, hc, hbit, rfl, rfl⟩
    exact ⟨r, c, hr, hc, hbit, hset⟩

/-! ### What `Dxyn` draws -/

/-- The sprite of a `Dxyn` covers the pixel. -/
def State.covers (s : State) (x y n : Nibble) (row : Fin 32) (col : Fin 64) : Prop :=
  spriteCovers s.spriteRow (s.reg x) (s.reg y) n.toNat row col

theorem State.pixel_drawing (s : State) (x y n : Nibble) (row : Fin 32) (col : Fin 64) :
    pixel (s.drawing x y n).fb row col = (pixel s.FB row col ^^ decide (s.covers x y n row col)) :=
  pixel_drawRows (n.isLt.le.trans (by decide)) _ row col

theorem State.drawing_hit_iff (s : State) (x y n : Nibble) :
    (s.drawing x y n).hit = true ↔ ∃ row col, pixel s.FB row col = true ∧ s.covers x y n row col :=
  drawRows_hit_iff (n.isLt.le.trans (by decide)) s.FB

/-- The collision as a number in the register file it is put in. -/
theorem readReg_flagByte_toNat (V : RegFile) (f : Bool) :
    (readReg (writeReg V 15 (flagByte f)) 15).toNat = f.toNat := by
  rw [readReg_writeReg_self, flagByte_toNat]

/-- Settles O44: the pixels and the collision of the draw, and the flag put over the old registers. -/
theorem drawXorsCoveredPixels : Obligations.DrawXorsCoveredPixels := by
  intro s x y n
  refine ⟨(s.drawing x y n).fb, writeReg s.V 15 (flagByte (s.drawing x y n).hit), rfl,
    fun row col => ⟨fun hcov => ?_, fun hcov => ?_⟩, ?_, ?_, fun r hr => readReg_writeReg_ne _ _ hr⟩
  · change s.covers x y n row col at hcov
    rw [State.pixel_drawing, decide_eq_true hcov, Bool.xor_true]
  · change ¬s.covers x y n row col at hcov
    rw [State.pixel_drawing, decide_eq_false hcov, Bool.xor_false]
  · rw [readReg_flagByte_toNat, Bool.toNat_eq_one]
    exact s.drawing_hit_iff x y n
  · rw [readReg_flagByte_toNat]
    exact Bool.toNat_le _

/-! ### The same draw again -/

/-- A draw leaves memory and `I` alone, so with the same position the next one covers the same pixels. -/
theorem covers_of_exec_drw {s t : State} {x y n : Nibble} (h : exec (.drw x y n) s = .next t)
    (hx : t.reg x = s.reg x) (hy : t.reg y = s.reg y) : t.covers x y n = s.covers x y n := by
  have hsprite : t.spriteRow = s.spriteRow := by
    injection h with h
    exact h ▸ rfl
  funext row col
  rw [State.covers, State.covers, hsprite, hx, hy]

theorem exec_drw_FB {s t : State} {x y n : Nibble} (h : exec (.drw x y n) s = .next t) :
    t.FB = (s.drawing x y n).fb := by
  injection h with h
  exact h ▸ rfl

theorem exec_drw_flag {s t : State} {x y n : Nibble} (h : exec (.drw x y n) s = .next t) :
    (t.reg 15).toNat = 1 ↔ ∃ row col, pixel s.FB row col = true ∧ s.covers x y n row col := by
  injection h with h
  subst h
  rw [← State.drawing_hit_iff, ← Bool.toNat_eq_one, ← readReg_flagByte_toNat s.V]
  rfl

/-- Settles O45: a pixel inverted twice is as it was, and a covered pixel is set after the first draw exactly when it
was not before. -/
theorem drawTwiceRestores : Obligations.DrawTwiceRestores := by
  intro s t u x y n hst hx hy htu
  have hcovers := covers_of_exec_drw hst hx hy
  have hfirst (row : Fin 32) (col : Fin 64) :
      pixel t.FB row col = (pixel s.FB row col ^^ decide (s.covers x y n row col)) := by
    rw [exec_drw_FB hst, State.pixel_drawing]
  constructor
  · refine framebuffer_ext fun row col => ?_
    rw [exec_drw_FB htu, State.pixel_drawing, hfirst, hcovers, Bool.xor_assoc, Bool.xor_self, Bool.xor_false]
  · rw [exec_drw_flag htu, hcovers]
    refine exists_congr fun row => exists_congr fun col => and_congr_left fun hcov => ?_
    rw [hfirst, decide_eq_true hcov, Bool.xor_true, Bool.not_eq_true']

end Sys2Proof.Machine
end

section
/-! PROOFS. Random bytes, the key skips and the key wait (spec/44_input_timer_random.md sections 2 to 4). -/

namespace Sys2Proof.Machine

/-- Settles O46: one register is put, and a bit outside `kk` does not pass the mask. -/
theorem randomIsMasked : Obligations.RandomIsMasked := by
  intro s x kk
  have hread : readReg (writeReg s.V x (s.nextRandom &&& kk)) x = Config.randomByte s.draws &&& kk :=
    readReg_writeReg_self _ _ _
  refine ⟨writeReg s.V x (s.nextRandom &&& kk), rfl, hread, fun i hi => ?_, fun r hr => readReg_writeReg_ne _ _ hr⟩
  rw [hread, BitVec.getLsbD_and, hi, Bool.and_false]

/-- Settles O47: with a line number up to 15 neither of the two raises, and each skips by the state of the line. -/
theorem keySkips : Obligations.KeySkips := by
  intro s x hx
  have hline : ¬15 < (s.reg x).toNat := Nat.not_lt.mpr hx
  exact ⟨(if_neg hline).trans (congrArg _ (s.skipIf_eq_of_iff Iff.rfl)),
    (if_neg hline).trans (congrArg _ (s.skipIf_eq_of_iff (Bool.not_eq_true' _).to_iff))⟩

/-! ### The key wait by what it finds -/

theorem exec_ldVxK_of_some {s : State} (x : Nibble) {line : Nat} (h : firstPressed s.K = some line) :
    exec (.ldVxK x) s = .next (s.setReg x (BitVec.ofNat 8 line)).advance := by
  simp only [exec, execLdVxK, h, keyWaitRegs, Option.isSome_some, Option.isNone_some, Bool.or_false, if_true]
  rfl

theorem exec_ldVxK_of_none {s : State} (x : Nibble) (h : firstPressed s.K = none) :
    exec (.ldVxK x) s = .next { s with blocked := true } := by
  simp [exec, execLdVxK, h, keyWaitRegs]

/-- Settles O49: the least pressed line is the one found, and without one the Step is blocked. -/
theorem keyWait : Obligations.KeyWait := by
  refine fun s x => ⟨fun k hk hpressed hleast => ?_, fun hnone => ?_⟩
  · obtain ⟨V, hexec, hline, hrest⟩ :=
      exists_regFile_of_setReg (exec_ldVxK_of_some x (firstPressed_eq_some hk hpressed hleast))
    refine ⟨V, hexec, ?_, hrest⟩
    rw [hline, BitVec.toNat_ofNat, Nat.mod_eq_of_lt (by omega)]
  · exact exec_ldVxK_of_none x (firstPressed_eq_none hnone)

end Sys2Proof.Machine
end
